-- ==== Sys2Proof/Word.lean ====
section
/-! DEFINITION. The two word types of the block: a BUF byte and a 32-bit word (00_scope.md R8, R9, R16). -/

namespace Sys2Proof

/-- A byte of BUF: bit 7 is the MSB, bit 0 the LSB, whatever the quirks (R9). -/
abbrev Byte := BitVec 8

/-- A 32-bit word: a command word, a CRC, a device identifier. -/
abbrev Word := BitVec 32

end Sys2Proof
end

