-- ==== Sys2Proof/Syntax.lean ====
section
/-! DEFINITION. The twelve commands of the block (30_encoding.md R92), one constructor per row of the opcode table. -/

namespace Sys2Proof

/-- A quirk set (00_scope.md R13): which of MSB_ON_THE_RIGHT, LITTLE_ENDIAN, LSW32_IS_FIRST it holds. There is no
fourth quirk (90_conflicts.md C1). -/
structure Quirks where
  msbr : Bool
  le   : Bool
  lsw  : Bool
deriving DecidableEq, Repr

/-- A command. All operands but the quirk set and the framer mode are registers named by the command's rule (R87).
`frBegin` carries its 2-bit MODE field; the reserved value 3 is not well formed. -/
inductive Instr where
  | nop
  | pack (q : Quirks)
  | unpack (q : Quirks)
  | crc32
  | frBegin (mode : BitVec 2)
  | putDevid
  | putHdr
  | putBodycrc
  | putEnd
  | getDevid
  | getHdr
  | getBody
deriving DecidableEq, Repr

end Sys2Proof
end

