-- ==== Sys2Proof/WellFormed.lean ====
section
/-! DEFINITION. Which commands have an encoding: the one check of 30_encoding.md R86 that a field's type does not make
already, MODE 3 of FR_BEGIN (R93). -/

namespace Sys2Proof

/-- `i` is a command of the encoding: MODE of FR_BEGIN is 0, 1 or 2 (R86 step 5, R93). -/
def Instr.wellFormed (i : Instr) : Bool :=
  match i with
  | .nop => true
  | .pack _ => true
  | .unpack _ => true
  | .crc32 => true
  | .frBegin mode => mode != 3
  | .putDevid => true
  | .putHdr => true
  | .putBodycrc => true
  | .putEnd => true
  | .getDevid => true
  | .getHdr => true
  | .getBody => true

end Sys2Proof
end

