-- ==== Sys2Proof/Decode.lean ====
section
/-! DEFINITION. The decoder (30_encoding.md R86) and the encoder (R85, R90, R92). -/

namespace Sys2Proof

/-- Why a command word is illegal (R86, R94); each is reported as `IllegalCommand`. -/
inductive Illegal where
  /-- Step 1: a bit of `RSV`, bits 31:14, is set. -/
  | reservedBits
  /-- Step 1: `Q3`, bit 11, the slot of the undefined fourth quirk, is set (R91). -/
  | fourthQuirk
  /-- Step 2: the opcode is not one of the twelve. -/
  | unlistedOpcode
  /-- Step 3: `Q` is not 0 and the opcode is neither PACK nor UNPACK. -/
  | quirksNotAllowed
  /-- Step 4: `MODE` is not 0 and the opcode is not FR_BEGIN. -/
  | modeNotAllowed
  /-- Step 5: FR_BEGIN with `MODE = 3`. -/
  | reservedMode
deriving DecidableEq, Repr

/-- The fields of a command word (R85). -/
def opcOf (w : Word) : BitVec 8 := w.extractLsb' 0 8
def quirkBitsOf (w : Word) : BitVec 3 := w.extractLsb' 8 3
def q3Of (w : Word) : BitVec 1 := w.extractLsb' 11 1
def modeOf (w : Word) : BitVec 2 := w.extractLsb' 12 2
def rsvOf (w : Word) : BitVec 18 := w.extractLsb' 14 18

/-- The quirk set of a `Q` field: bit 0 MSB_ON_THE_RIGHT, bit 1 LITTLE_ENDIAN, bit 2 LSW32_IS_FIRST (R90). -/
def Quirks.ofBits (b : BitVec 3) : Quirks :=
  ⟨b.getLsbD 0, b.getLsbD 1, b.getLsbD 2⟩

/-- The `Q` field of a quirk set (R90). -/
def Quirks.toBits (q : Quirks) : BitVec 3 :=
  BitVec.ofBool q.lsw ++ BitVec.ofBool q.le ++ BitVec.ofBool q.msbr

/-- Which opcodes take a `Q` field, and which a `MODE` field (R85). -/
def takesQuirks (opc : BitVec 8) : Bool := opc == 0x02 || opc == 0x03
def takesMode (opc : BitVec 8) : Bool := opc == 0x10

/-- The opcode map (R92): the command of a listed opcode, with the word's `Q` and `MODE` as its fields. -/
def opcodeCommand? (opc : BitVec 8) (q : BitVec 3) (mode : BitVec 2) : Option Instr :=
  match opc with
  | 0x00#8 => some .nop
  | 0x02#8 => some (.pack (Quirks.ofBits q))
  | 0x03#8 => some (.unpack (Quirks.ofBits q))
  | 0x04#8 => some .crc32
  | 0x10#8 => some (.frBegin mode)
  | 0x11#8 => some .putDevid
  | 0x12#8 => some .putHdr
  | 0x13#8 => some .putBodycrc
  | 0x14#8 => some .putEnd
  | 0x19#8 => some .getDevid
  | 0x1A#8 => some .getHdr
  | 0x1B#8 => some .getBody
  | _ => none

/-- The decoder, its tests in the order of R86: total on every 32-bit word, and reading nothing but the word (R95). -/
def decode (w : Word) : Except Illegal Instr :=
  if rsvOf w ≠ 0 then .error .reservedBits
  else if q3Of w ≠ 0 then .error .fourthQuirk
  else match opcodeCommand? (opcOf w) (quirkBitsOf w) (modeOf w) with
    | none => .error .unlistedOpcode
    | some i =>
      if !takesQuirks (opcOf w) && quirkBitsOf w != 0 then .error .quirksNotAllowed
      else if !takesMode (opcOf w) && modeOf w != 0 then .error .modeNotAllowed
      else if takesMode (opcOf w) && modeOf w == 3 then .error .reservedMode
      else .ok i

/-- A command word from its fields, `RSV` and `Q3` zero (R85). -/
def commandWord (mode : BitVec 2) (q : BitVec 3) (opc : BitVec 8) : Word :=
  0#18 ++ mode ++ 0#1 ++ q ++ opc

/-- The command word of a command (R92). -/
def encode (i : Instr) : Word :=
  match i with
  | .nop => commandWord 0 0 0x00
  | .pack q => commandWord 0 q.toBits 0x02
  | .unpack q => commandWord 0 q.toBits 0x03
  | .crc32 => commandWord 0 0 0x04
  | .frBegin mode => commandWord mode 0 0x10
  | .putDevid => commandWord 0 0 0x11
  | .putHdr => commandWord 0 0 0x12
  | .putBodycrc => commandWord 0 0 0x13
  | .putEnd => commandWord 0 0 0x14
  | .getDevid => commandWord 0 0 0x19
  | .getHdr => commandWord 0 0 0x1A
  | .getBody => commandWord 0 0 0x1B

/-- The opcode table's `match` of a command's row (R92, opcode_table.json). -/
def tableMatch (i : Instr) : Word :=
  match i with
  | .nop => 0x00000000
  | .pack _ => 0x00000002
  | .unpack _ => 0x00000003
  | .crc32 => 0x00000004
  | .frBegin _ => 0x00000010
  | .putDevid => 0x00000011
  | .putHdr => 0x00000012
  | .putBodycrc => 0x00000013
  | .putEnd => 0x00000014
  | .getDevid => 0x00000019
  | .getHdr => 0x0000001A
  | .getBody => 0x0000001B

/-- The opcode table's `mask` of a command's row (R92, opcode_table.json). -/
def tableMask (i : Instr) : Word :=
  match i with
  | .nop => 0xFFFFFFFF
  | .pack _ => 0xFFFFF8FF
  | .unpack _ => 0xFFFFF8FF
  | .crc32 => 0xFFFFFFFF
  | .frBegin _ => 0xFFFFCFFF
  | .putDevid => 0xFFFFFFFF
  | .putHdr => 0xFFFFFFFF
  | .putBodycrc => 0xFFFFFFFF
  | .putEnd => 0xFFFFFFFF
  | .getDevid => 0xFFFFFFFF
  | .getHdr => 0xFFFFFFFF
  | .getBody => 0xFFFFFFFF

/-- The one word the port carries for an instruction whose lowest `nbits` bits are `w` and whose other bits are 0.
A command is one 32-bit word (R85) moved whole over the port, so there is no byte order to lay out (20_memory.md R68). -/
def portWord (nbits w : Nat) : Word := BitVec.ofNat 32 (w % 2 ^ nbits)

/-- The command the decoder reads from the instruction whose `nbits` bits are `w`; none where it refuses. -/
def decodeTableWord (nbits w : Nat) : Option Instr := (decode (portWord nbits w)).toOption

end Sys2Proof
end

