-- ==== Sys2Proof/Config.lean ====
section
/-! DEFINITION. What an implementation fixes (00_scope.md R6) and the free values the spec leaves open
(93_implementation_defined.md U1 to U5). -/

namespace Sys2Proof

/-- One row of the partial function `ENTRY_SIZE` (R6, 43_framer_parse.md R193): the packed entry size, in
bytes and at least 1, of block `blkid` of the device `devid`. -/
structure EntrySize where
  devid : Word
  blkid : Byte
  size  : ℕ+
deriving DecidableEq, Repr

/-- The parameters of R6, fixed when the block is built. `bufExtra` is `BUF_BYTES - 4`, so that the constraint
`4 <= BUF_BYTES <= 2^32 - 1` holds of every value; `deviceIds` is the set `DEVICE_IDS`; `entrySizes` is the graph
of `ENTRY_SIZE`, of which the first row for a pair of ids counts. -/
structure Params where
  bufExtra      : Fin 4294967292
  deviceIds     : List Word
  entrySizes    : List EntrySize
  sentinelCrc   : Word
  sentinelBlkid : Byte
deriving DecidableEq, Repr

/-- `BUF_BYTES`, the size of BUF (R6, 10_state.md R41). -/
def Params.bufBytes (p : Params) : Nat := 4 + p.bufExtra.val

namespace Config

/-- OPEN parameter `BUF_BYTES`, less 4 (R6, D2). -/
opaque bufExtra : Fin 4294967292

/-- OPEN parameter `DEVICE_IDS` (R6, D20). -/
opaque deviceIds : List Word

/-- OPEN parameter `ENTRY_SIZE` (R6, D21). -/
opaque entrySizes : List EntrySize

/-- The parameters of the machine that `State.reset` starts: the three OPEN ones are opaque, the sentinel's two have
the defaults of R6 (D17, there marked general knowledge). -/
def params : Params where
  bufExtra := bufExtra
  deviceIds := deviceIds
  entrySizes := entrySizes
  sentinelCrc := 0xDEADBEEF
  sentinelBlkid := 0x00

/-- Free value (DESIGN CHOICE, log entry 2): what BUF byte `address` holds after reset number `resets`
(70_reset_and_hazards.md R251, R252: any value, not necessarily the same at two resets). -/
opaque resetByte : (resets address : Nat) → Byte

/-- Free value (DESIGN CHOICE, log entry 3): what ECNT holds after a body of `count` entries is accepted, `count` being no
24-bit number and `old` what ECNT held (10_state.md R29 gives ECNT 24 bits and 43_framer_parse.md R192 the count, without a
result for such a count). It depends on the block's own state alone, as 44_system.md R211 asks. -/
opaque ecntUnfit : (count : Nat) → (old : BitVec 24) → BitVec 24

end Config

end Sys2Proof
end

