-- ==== Sys2Proof/Machine/State.lean ====
section
/-! DEFINITION. The state of the block (10_state.md R20, R21, R41), what a host may ask of it (20_memory.md R60), how a
step can stop, and the state after reset (70_reset_and_hazards.md R251). -/

namespace Sys2Proof.Machine

/-- Why the machine stops with a fault. The spec has none (60_exceptions.md R220). -/
inductive Fault where
  /-- A framer command's span leaves BUF. Raised by PUT commands in mode PACK and by GET commands, only in a state whose
  LIMIT is beyond BUF, which no run from reset reaches (10_state.md R43, 20_memory.md R74). Safe (log entry 7). -/
  | bufAddressAbsent
deriving DecidableEq, Repr

/-- Why the model does not accept a step. -/
inductive Refusal where
  /-- The instruction of that mnemonic has no meaning yet. Raised by no arm of `exec`. Safe. -/
  | notModelled (mnemonic : String)
  /-- A host access to a register number above 17 (10_state.md R36, U9). Raised by the host port. Safe (log entry 5). -/
  | registerUnassigned (number : Nat)
  /-- A host write to a read-only register (R36, U9). Raised by the host port. Safe (log entry 5). -/
  | registerReadOnly (number : Nat)
  /-- A host buffer access at or beyond `BUF_BYTES` (20_memory.md R61, U9). Raised by the host port. Safe (log entry 5). -/
  | bufferBeyondEnd (address : Nat)
deriving DecidableEq, Repr

/-- The eighteen registers by name (R21). -/
inductive Reg where
  | value | start | endBit | base | len | pos | limit | devid | blkid | hlen | rdcrc | crc | ecnt | status | esticky
  | frstate | frmode | seen
deriving DecidableEq, Repr

/-- One operation of the host port (20_memory.md R60). Register numbers, written values and addresses are whatever
numbers the host offers; the operation's rule says which are legal and truncates a value (R36). -/
inductive HostOp where
  | regWrite (number value : Nat)
  | regRead (number : Nat)
  | bufWrite (address : Nat) (byte : Byte)
  | bufRead (address : Nat)
  | cmd (word : Word)
deriving DecidableEq, Repr

/-- What can happen to the block from outside: a host operation, or the external reset (R250). -/
inductive Event where
  | op (o : HostOp)
  | reset
deriving DecidableEq, Repr

/-- What a read returns to the host: a register as a number (R63), or a BUF byte. -/
inductive Reply where
  | register (value : Nat)
  | byte (value : Byte)
deriving DecidableEq, Repr

/-- BUF as the list of the bytes written since reset, addresses strictly rising. An unlisted address has no byte in
the list, so no entry can equal what it holds; the byte it reads as is `State.unlisted` of Ops.lean. -/
abbrev Memory := List Host.Cell

/-- The canonical form of `Memory`: addresses strictly rising. -/
abbrev Memory.wf (m : Memory) : Prop := m.Pairwise (fun x y => x.1 < y.1)

/-- FRSTATE values (R32). -/
abbrev FrState.idle : BitVec 3 := 0
abbrev FrState.devid : BitVec 3 := 1
abbrev FrState.hdr : BitVec 3 := 2
abbrev FrState.body : BitVec 3 := 3
abbrev FrState.done : BitVec 3 := 4
abbrev FrState.failed : BitVec 3 := 5

/-- FRMODE values (R33, 30_encoding.md R93). -/
abbrev FrMode.pack : BitVec 2 := 0
abbrev FrMode.unpack : BitVec 2 := 1
abbrev FrMode.length : BitVec 2 := 2

/-- The state: the eighteen registers and BUF, which are all the spec gives the block (R20), and four fields of the
model's own. -/
structure State where
  /-- VALUE, the unsigned value to pack or the value unpacked (R22). -/
  value   : BitVec 64
  /-- START, `start_bit` of the field (R23). -/
  start   : BitVec 32
  /-- END, `end_bit` of the field (R23). -/
  endBit  : BitVec 32
  /-- BASE, BUF address of the packed buffer or stream (R24). -/
  base    : BitVec 32
  /-- LEN, its length in bytes (R24). -/
  len     : BitVec 32
  /-- POS, the stream cursor (R25). -/
  pos     : BitVec 32
  /-- LIMIT, one past the stream region (R25). -/
  limit   : BitVec 32
  /-- DEVID (R26). -/
  devid   : BitVec 32
  /-- BLKID, header field `block_id` (R27). -/
  blkid   : BitVec 8
  /-- HLEN, header field `len`, in 4-byte words (R27). -/
  hlen    : BitVec 24
  /-- RDCRC, the CRC last read from the stream (R28). -/
  rdcrc   : BitVec 32
  /-- CRC, the CRC last computed (R28). -/
  crc     : BitVec 32
  /-- ECNT, entries of the body last accepted (R29). -/
  ecnt    : BitVec 24
  /-- STATUS, the code of the last command (R30). -/
  status  : BitVec 8
  /-- ESTICKY, one sticky bit per error code (R31). -/
  esticky : BitVec 32
  /-- FRSTATE, the framer state (R32). -/
  frstate : BitVec 3
  /-- FRMODE, the framer mode (R33). -/
  frmode  : BitVec 2
  /-- SEEN, one bit per block id accepted in this parse (R34). -/
  seen    : BitVec 256
  /-- BUF (R41). -/
  buf     : Memory
  /-- MODEL's own: the parameters of R6, which no step changes (log entry 1). -/
  params  : Params
  /-- MODEL's own: how many resets have happened, which BUF's free content depends on (log entry 2). -/
  resets  : Nat
  /-- MODEL's own: what the outside world does next, oldest first (log entry 4). -/
  pending : List Event
  /-- MODEL's own: what the last port operation returned (log entry 4). -/
  reply   : Option Reply
deriving DecidableEq, Repr

/-- `BUF_BYTES` of the machine in state `s`. -/
def State.bufBytes (s : State) : Nat := s.params.bufBytes

/-- The state after reset (R251): every register 0, BUF unspecified (nothing listed). -/
def State.reset : State where
  value := 0
  start := 0
  endBit := 0
  base := 0
  len := 0
  pos := 0
  limit := 0
  devid := 0
  blkid := 0
  hlen := 0
  rdcrc := 0
  crc := 0
  ecnt := 0
  status := 0
  esticky := 0
  frstate := FrState.idle
  frmode := FrMode.pack
  seen := 0
  buf := []
  params := Config.params
  resets := 0
  pending := []
  reply := none

end Sys2Proof.Machine
end

