-- ==== Sys2Proof/Machine/Flags.lean ====
section
/-! DEFINITION. The block's only flags, STATUS and ESTICKY (10_state.md R30, R31, R35), and the error kinds they report
(60_exceptions.md R221). -/

namespace Sys2Proof.Machine

/-- The fifteen error kinds (R221). -/
inductive ErrorKind where
  | invalidRange
  | rangeExceeded
  | badLength
  | bufferBounds
  | badSequence
  | illegalCommand
  | badOperand
  | unexpectedEndOfBuffer
  | invalidDeviceId
  | invalidTableHeaderCrc
  | tableHeaderUnknown
  | tableHeaderDuplicate
  | incorrectTableLength
  | dataCrcInvalid
  | extraBytesAtEndOfBuffer
deriving DecidableEq, Repr

/-- `code(K)`: the STATUS value and the ESTICKY bit number of a kind (R221). -/
def ErrorKind.code (k : ErrorKind) : Nat :=
  match k with
  | .invalidRange => 0x01
  | .rangeExceeded => 0x02
  | .badLength => 0x08
  | .bufferBounds => 0x09
  | .badSequence => 0x0A
  | .illegalCommand => 0x0B
  | .badOperand => 0x0C
  | .unexpectedEndOfBuffer => 0x10
  | .invalidDeviceId => 0x11
  | .invalidTableHeaderCrc => 0x12
  | .tableHeaderUnknown => 0x13
  | .tableHeaderDuplicate => 0x14
  | .incorrectTableLength => 0x15
  | .dataCrcInvalid => 0x16
  | .extraBytesAtEndOfBuffer => 0x17

/-- All fifteen kinds, in the order of their codes. -/
def ErrorKind.all : List ErrorKind :=
  [.invalidRange, .rangeExceeded, .badLength, .bufferBounds, .badSequence, .illegalCommand, .badOperand,
   .unexpectedEndOfBuffer, .invalidDeviceId, .invalidTableHeaderCrc, .tableHeaderUnknown, .tableHeaderDuplicate,
   .incorrectTableLength, .dataCrcInvalid, .extraBytesAtEndOfBuffer]

/-- STATUS after a command that ends OK (R30). -/
def statusOk : BitVec 8 := 0x00

/-- STATUS after a command that ends with kind `k` (R224). -/
def statusOf (k : ErrorKind) : BitVec 8 := BitVec.ofNat 8 k.code

/-- ESTICKY after a command that ends with kind `k` (R224). -/
def stickySet (sticky : BitVec 32) (k : ErrorKind) : BitVec 32 := sticky ||| BitVec.ofNat 32 (2 ^ k.code)

/-- ESTICKY after a host write of `w` (R31): write 1 to clear. -/
def stickyClear (sticky w : BitVec 32) : BitVec 32 := sticky &&& ~~~w

/-- The ESTICKY bits that are error codes; every other bit reads 0 (R31). -/
def stickyMask : BitVec 32 := ErrorKind.all.foldl stickySet 0

end Sys2Proof.Machine
end

