-- ==== Sys2Proof/Machine/Operands.lean ====
section
/-! DEFINITION. Operand forms: the field descriptor and its checks (40_packing.md R111, R120), where a field's bits lie
under a quirk set (20_memory.md R64, R65), and the pure functions `Pack` and `Unpack` on byte strings (R118, R119).
Arithmetic is over the natural numbers (00_scope.md R7). -/

namespace Sys2Proof.Machine

/-- The quirk set `{}`, and the one that the framer and the CRC always use (20_memory.md R68). -/
def noQuirks : Quirks := ⟨false, false, false⟩
def lswOnly : Quirks := ⟨false, false, true⟩

/-- `rev8` (00_scope.md R8): bit `i` of the result is bit `7 - i`. -/
def rev8 (b : Byte) : Byte := b.reverse

/-- `mask(hi, lo)` as a byte (R8): exactly the bits `hi` down to `lo`. -/
def maskByte (hi lo : Nat) : Byte := BitVec.ofNat 8 (2 ^ (hi + 1) - 2 ^ lo)

/-- `v[hi:lo]` (R8). -/
def bitsOf (v hi lo : Nat) : Nat := v / 2 ^ lo % 2 ^ (hi - lo + 1)

/-- The offset of box `b` from the first byte of a packed buffer of `n` bytes (20_memory.md R64). -/
def physAddr (b n : Nat) (q : Quirks) : Nat :=
  let a0 := n - b - 1
  let a1 := if q.le then a0 / 4 * 4 + (3 - a0 % 4) else a0
  if q.lsw then (n / 4 - a1 / 4 - 1) * 4 + a1 % 4 else a1

/-- The physical bit that holds box bit `p` (20_memory.md R65). -/
def physBit (p : Nat) (q : Quirks) : Nat := if q.msbr then 7 - p else p

/-- The two directions of the packing primitive. -/
inductive Direction where
  | pack
  | unpack
deriving DecidableEq, Repr

/-- `Check` (R120): the first test that fails, or none. The width `start - end + 1` is computed where `start >= end`. -/
def check (op : Direction) (v start endBit n : Nat) (q : Quirks) : Option ErrorKind :=
  if start < endBit then some .invalidRange
  else if start - endBit + 1 > 64 then some .rangeExceeded
  else if op = .pack ∧ start - endBit + 1 < 64 ∧ v ≥ 2 ^ (start - endBit + 1) then some .rangeExceeded
  else if (q.le ∨ q.lsw) ∧ n % 4 ≠ 0 then some .badLength
  else if start ≥ 8 * n then some .bufferBounds
  else none

/-- The boxes a field visits, from the highest to the lowest (R112). -/
def boxes (start endBit : Nat) : List Nat :=
  (List.range (start / 8 - endBit / 8 + 1)).map (fun i => start / 8 - i)

/-- The highest and the lowest box bit of the field in `box` (R112). -/
def boxTop (start box : Nat) : Nat := if box = start / 8 then start % 8 else 7
def boxBottom (endBit box : Nat) : Nat := if box = endBit / 8 then endBit % 8 else 0

/-- The lowest and the highest value bit that `box` holds (R113). -/
def valueBottom (endBit box : Nat) : Nat := box * 8 + boxBottom endBit box - endBit
def valueTop (start endBit box : Nat) : Nat := box * 8 + boxTop start box - endBit

/-- A byte under MSB_ON_THE_RIGHT (R115). -/
def reflect (q : Quirks) (b : Byte) : Byte := if q.msbr then rev8 b else b

/-- The pack update of one box (R116): the byte `old` with the field's bits replaced. -/
def packByte (q : Quirks) (v start endBit box : Nat) (old : Byte) : Byte :=
  let field := bitsOf v (valueTop start endBit box) (valueBottom endBit box)
  let m := reflect q (maskByte (boxTop start box) (boxBottom endBit box))
  let bits := reflect q (BitVec.ofNat 8 (field * 2 ^ boxBottom endBit box))
  (old &&& ~~~m) ||| bits

/-- What one box adds to the unpacked value (R117). -/
def unpackByte (q : Quirks) (start endBit box : Nat) (byte : Byte) : Nat :=
  bitsOf (reflect q byte).toNat (boxTop start box) (boxBottom endBit box) * 2 ^ valueBottom endBit box

/-- `Pack` (R118) on a byte string. -/
def pack (s : List Byte) (v start endBit : Nat) (q : Quirks) : List Byte :=
  (boxes start endBit).foldl
    (fun t box =>
      t.set (physAddr box s.length q) (packByte q v start endBit box (t.getD (physAddr box s.length q) 0)))
    s

/-- `Unpack` (R119) of a buffer of `n` bytes whose byte at offset `a` is `byteAt a`. -/
def unpackFrom (byteAt : Nat → Byte) (n start endBit : Nat) (q : Quirks) : Nat :=
  (boxes start endBit).foldl (fun v box => v + unpackByte q start endBit box (byteAt (physAddr box n q))) 0

/-- `Unpack` (R119) on a byte string. -/
def unpack (s : List Byte) (start endBit : Nat) (q : Quirks) : Nat :=
  unpackFrom (fun a => s.getD a 0) s.length start endBit q

/-- A 32-bit number as a word of a stream, `Pack(00 00 00 00, v, 31, 0, {LSW32_IS_FIRST})` (R145, R156). -/
def wordBytes (v : Word) : List Byte := pack (List.replicate 4 0) v.toNat 31 0 lswOnly

/-- The 32-bit number in a word of a stream, `Unpack(s, 31, 0, {LSW32_IS_FIRST})` (R142, R188). -/
def wordOf (s : List Byte) : Word := BitVec.ofNat 32 (unpack s 31 0 lswOnly)

/-- `ENTRY_SIZE(devid, blkid)` (R6, 43_framer_parse.md R193); none where it is undefined. -/
def entrySize (p : Params) (devid : Word) (blkid : Byte) : Option Nat :=
  (p.entrySizes.find? (fun e => e.devid == devid && e.blkid == blkid)).map (fun e => (e.size : Nat))

end Sys2Proof.Machine
end

