-- ==== Sys2Proof/Machine/Crc.lean ====
section
/-! DEFINITION. The CRC-32 function (41_crc32.md R141 to R143). -/

namespace Sys2Proof.Machine

/-- The reflected generator (R141; there marked general knowledge, D16, log entry 9). -/
def crcPoly : Word := 0xEDB88320

/-- One of the eight shifts of `Crc32Std` (R141). -/
def crcBit (c : Word) : Word := if c.getLsbD 0 then (c >>> 1) ^^^ crcPoly else c >>> 1

/-- The register after one message byte (R141). -/
def crcByte (c : Word) (m : Byte) : Word := crcBit^[8] (c ^^^ m.setWidth 32)

/-- `Crc32Std` (R141): seed all-ones, result complemented. -/
def crc32Std (m : List Byte) : Word := m.foldl crcByte 0xFFFFFFFF ^^^ 0xFFFFFFFF

/-- The four bytes of a word from the least significant to the most significant (R142). -/
def bytesLsbFirst (w : Word) : List Byte :=
  [w.extractLsb' 0 8, w.extractLsb' 8 8, w.extractLsb' 16 8, w.extractLsb' 24 8]

/-- `Norm` (R142): each 4-byte group is unpacked to a word and listed least significant byte first. Defined for lengths
that are multiples of 4; a ragged tail, which no rule passes, is dropped. -/
def norm (s : List Byte) : List Byte :=
  match s with
  | a :: b :: c :: d :: rest => bytesLsbFirst (wordOf [a, b, c, d]) ++ norm rest
  | _ => []

/-- `Crc` (R143), the one CRC function of the block. Irreducible, so that no proof about states tries to compute it. -/
@[irreducible]
def crcOf (s : List Byte) : Word := crc32Std (norm s)

end Sys2Proof.Machine
end

