-- ==== Sys2Proof/Machine/Ops.lean ====
section
/-! DEFINITION. The named operations the meanings share: reading and writing BUF (00_scope.md R12, 20_memory.md R72),
taking an error (60_exceptions.md R224), ending OK, and the registers as numbers (10_state.md R21). -/

namespace Sys2Proof.Machine

/-- What a step of the block answers. -/
abbrev Result := Host.Outcome State Fault Refusal

/-! ### BUF -/

/-- The byte listed at an address, if one is. -/
def Memory.byteAt? (m : Memory) (a : Nat) : Option Byte :=
  match m with
  | [] => none
  | (k, b) :: rest => if k = a then some b else Memory.byteAt? rest a

/-- The byte at an address, `free` giving those of the unlisted addresses. -/
def Memory.byteAt (m : Memory) (free : Nat → Byte) (a : Nat) : Byte := (m.byteAt? a).getD (free a)

/-- The memory with byte `b` at address `a`, in canonical form. -/
def Memory.putByte (m : Memory) (a : Nat) (b : Byte) : Memory :=
  match m with
  | [] => [(a, b)]
  | (k, c) :: rest =>
    if a < k then (a, b) :: (k, c) :: rest
    else if a = k then (a, b) :: rest
    else (k, c) :: Memory.putByte rest a b

/-- The memory with the byte string `bs` at `a`, `a + 1`, ... -/
def Memory.putBytes (m : Memory) (a : Nat) (bs : List Byte) : Memory :=
  match bs with
  | [] => m
  | b :: rest => Memory.putBytes (m.putByte a b) (a + 1) rest

/-- The memory with a field packed into the buffer of `n` bytes at `base`: one read-modify-write for each visited box
and no other byte touched (20_memory.md R72, 40_packing.md R116). -/
def Memory.packField (m : Memory) (free : Nat → Byte) (base n v start endBit : Nat) (q : Quirks) : Memory :=
  (boxes start endBit).foldl
    (fun t box =>
      t.putByte (base + physAddr box n q)
        (packByte q v start endBit box (t.byteAt free (base + physAddr box n q))))
    m

/-- What a BUF byte that nothing has written since reset reads as: a free value (R251, R252, log entry 2). -/
def State.unlisted (s : State) (a : Nat) : Byte := Config.resetByte s.resets a

/-- `BUF[a]` (R12). -/
def State.bufByte (s : State) (a : Nat) : Byte := s.buf.byteAt s.unlisted a

/-- `MemRead(a, n)` (R12). -/
def State.memRead (s : State) (a n : Nat) : List Byte := (List.range n).map (fun i => s.bufByte (a + i))

/-- `BUF[a] <- b` (R12). -/
def State.putByte (s : State) (a : Nat) (b : Byte) : State := { s with buf := s.buf.putByte a b }

/-- `MemWrite(a, n, bs)`, `n` being the length of `bs` (R12). -/
def State.memWrite (s : State) (a : Nat) (bs : List Byte) : State := { s with buf := s.buf.putBytes a bs }

/-- Pack a field into the packed buffer `[BASE, BASE + LEN)` (R128). -/
def State.packField (s : State) (q : Quirks) : State :=
  { s with buf := s.buf.packField s.unlisted s.base.toNat s.len.toNat s.value.toNat s.start.toNat s.endBit.toNat q }

/-- The field of the packed buffer `[BASE, BASE + LEN)` that START and END name (R129). -/
def State.unpackField (s : State) (q : Quirks) : Nat :=
  unpackFrom (fun a => s.bufByte (s.base.toNat + a)) s.len.toNat s.start.toNat s.endBit.toNat q

/-- Answer `r` if the span `[a, a + n)` lies in BUF; there is no byte beyond it to access (20_memory.md R74, R81). -/
def State.within (s : State) (a n : Nat) (r : Result) : Result :=
  if a + n ≤ s.bufBytes then r else .fault .bufAddressAbsent

/-! ### Registers a command writes -/

/-- VALUE, CRC, DEVID and SEEN get a new value, nothing else changing. -/
def State.setValue (s : State) (v : BitVec 64) : State := { s with value := v }
def State.setCrc (s : State) (c : Word) : State := { s with crc := c }
def State.setDevid (s : State) (d : Word) : State := { s with devid := d }
def State.setSeen (s : State) (v : BitVec 256) : State := { s with seen := v }

/-- CRC and RDCRC get new values, nothing else changing. -/
def State.setCrcs (s : State) (c r : Word) : State := { s with crc := c, rdcrc := r }

/-- The read answer `r` goes to the host, nothing else changing. -/
def State.answer (s : State) (r : Reply) : State := { s with reply := some r }

/-! ### How a command ends -/

/-- End OK: STATUS gets 0x00 (10_state.md R30). -/
def State.ok (s : State) : State := { s with status := statusOk }

/-- Take a caller error, `raise K` (R224): STATUS and ESTICKY report it and nothing else changes. -/
def State.raise (s : State) (k : ErrorKind) : State :=
  { s with status := statusOf k, esticky := stickySet s.esticky k }

/-- Take a framing error, `fail K` (R224, 43_framer_parse.md R186): as `raise`, and the framer is in S_FAILED. What the
command wrote before stays; POS, LIMIT and BUF are as they were. The way back is FR_BEGIN (R228). -/
def State.fail (s : State) (k : ErrorKind) : State := { s.raise k with frstate := FrState.failed }

/-- Move the stream cursor to `p` and the framer to state `st`. -/
def State.advance (s : State) (p : Nat) (st : BitVec 3) : State :=
  { s with pos := BitVec.ofNat 32 p, frstate := st }

/-- A PUT command's element of `n` bytes at POS: `write` stores it, in mode PACK only, and `finish` does the rest
(42_framer_emit.md R161 to R164). -/
def State.emit (s : State) (n : Nat) (write finish : State → State) : Result :=
  if s.frmode = FrMode.pack then s.within s.pos.toNat n (.next (finish (write s))) else .next (finish s)

/-- The sequence test of a PUT command that needs FRSTATE `st` (R159, R161). -/
def State.putReady (s : State) (st : BitVec 3) : Bool := s.frmode != FrMode.unpack && s.frstate == st

/-- The sequence test of a GET command that needs FRSTATE `st` (43_framer_parse.md R186). -/
def State.getReady (s : State) (st : BitVec 3) : Bool := s.frmode == FrMode.unpack && s.frstate == st

/-! ### Registers as numbers -/

/-- How the host may use a register (R21). -/
inductive Access where
  | readWrite
  | readOnly
  | writeOneToClear
deriving DecidableEq, Repr

/-- The register of a number (R21); none above 17. -/
def Reg.ofNumber? (n : Nat) : Option Reg :=
  match n with
  | 0 => some .value
  | 1 => some .start
  | 2 => some .endBit
  | 3 => some .base
  | 4 => some .len
  | 5 => some .pos
  | 6 => some .limit
  | 7 => some .devid
  | 8 => some .blkid
  | 9 => some .hlen
  | 10 => some .rdcrc
  | 11 => some .crc
  | 12 => some .ecnt
  | 13 => some .status
  | 14 => some .esticky
  | 15 => some .frstate
  | 16 => some .frmode
  | 17 => some .seen
  | _ => none

/-- A register's width in bits (R21). -/
def Reg.width (r : Reg) : Nat :=
  match r with
  | .value => 64
  | .start => 32
  | .endBit => 32
  | .base => 32
  | .len => 32
  | .pos => 32
  | .limit => 32
  | .devid => 32
  | .blkid => 8
  | .hlen => 24
  | .rdcrc => 32
  | .crc => 32
  | .ecnt => 24
  | .status => 8
  | .esticky => 32
  | .frstate => 3
  | .frmode => 2
  | .seen => 256

/-- A register's host access (R21). -/
def Reg.access (r : Reg) : Access :=
  match r with
  | .value => .readWrite
  | .start => .readWrite
  | .endBit => .readWrite
  | .base => .readWrite
  | .len => .readWrite
  | .pos => .readOnly
  | .limit => .readOnly
  | .devid => .readWrite
  | .blkid => .readWrite
  | .hlen => .readWrite
  | .rdcrc => .readOnly
  | .crc => .readOnly
  | .ecnt => .readOnly
  | .status => .readOnly
  | .esticky => .writeOneToClear
  | .frstate => .readOnly
  | .frmode => .readOnly
  | .seen => .readOnly

/-- `reg[r]` as a number (R12). -/
def State.readReg (s : State) (r : Reg) : Nat :=
  match r with
  | .value => s.value.toNat
  | .start => s.start.toNat
  | .endBit => s.endBit.toNat
  | .base => s.base.toNat
  | .len => s.len.toNat
  | .pos => s.pos.toNat
  | .limit => s.limit.toNat
  | .devid => s.devid.toNat
  | .blkid => s.blkid.toNat
  | .hlen => s.hlen.toNat
  | .rdcrc => s.rdcrc.toNat
  | .crc => s.crc.toNat
  | .ecnt => s.ecnt.toNat
  | .status => s.status.toNat
  | .esticky => s.esticky.toNat
  | .frstate => s.frstate.toNat
  | .frmode => s.frmode.toNat
  | .seen => s.seen.toNat

/-- A host write of `v` (10_state.md R36, R31): truncated to the width, a clear for ESTICKY, nothing for a read-only
register (which `hostRegWrite` refuses before). -/
def State.writeReg (s : State) (r : Reg) (v : Nat) : State :=
  match r with
  | .value => { s with value := BitVec.ofNat 64 v }
  | .start => { s with start := BitVec.ofNat 32 v }
  | .endBit => { s with endBit := BitVec.ofNat 32 v }
  | .base => { s with base := BitVec.ofNat 32 v }
  | .len => { s with len := BitVec.ofNat 32 v }
  | .devid => { s with devid := BitVec.ofNat 32 v }
  | .blkid => { s with blkid := BitVec.ofNat 8 v }
  | .hlen => { s with hlen := BitVec.ofNat 24 v }
  | .esticky => { s with esticky := stickyClear s.esticky (BitVec.ofNat 32 v) }
  | .pos => s
  | .limit => s
  | .rdcrc => s
  | .crc => s
  | .ecnt => s
  | .status => s
  | .frstate => s
  | .frmode => s
  | .seen => s

end Sys2Proof.Machine
end

