-- ==== Sys2Proof/Machine/Checksum.lean ====
section
/-! DEFINITION. The command CRC32 (41_crc32.md R146). -/

namespace Sys2Proof.Machine

/-- CRC32 (R146): CRC gets `Crc` of the span `[BASE, BASE + LEN)`. -/
def execCrc32 (s : State) : Result :=
  let n := s.len.toNat
  let b := s.base.toNat
  if n % 4 ≠ 0 then .next (s.raise .badLength)
  else if b + n > s.bufBytes then .next (s.raise .bufferBounds)
  else .next (s.setCrc (crcOf (s.memRead b n))).ok

end Sys2Proof.Machine
end

