-- ==== Sys2Proof/Machine/Emit.lean ====
section
/-! DEFINITION. The framer, emit direction: the header and sentinel bytes (42_framer_emit.md R155, R157) and the commands
FR_BEGIN, PUT_DEVID, PUT_HDR, PUT_BODYCRC, PUT_END (R160 to R164). -/

namespace Sys2Proof.Machine

/-- The first 8 bytes of a table header and 4 zero bytes, before the CRC is put in (R157: `h2`). -/
def hdrPrefix (blk : Byte) (len : BitVec 24) : List Byte :=
  pack (pack (List.replicate 12 0) blk.toNat 31 24 lswOnly) len.toNat 55 32 lswOnly

/-- The header CRC, over the header's first 8 bytes (R157, 41_crc32.md R145). -/
def hdrCrc (blk : Byte) (len : BitVec 24) : Word := crcOf ((hdrPrefix blk len).take 8)

/-- `HdrBytes` (R157). Irreducible, so that no proof about states tries to compute it. -/
@[irreducible]
def hdrBytes (blk : Byte) (len : BitVec 24) : List Byte :=
  pack (hdrPrefix blk len) (hdrCrc blk len).toNat 95 64 lswOnly

/-- `SentinelBytes` (R157). -/
def sentinelBytes (p : Params) : List Byte :=
  p.sentinelBlkid :: List.replicate 7 0
    ++ [p.sentinelCrc.extractLsb' 24 8, p.sentinelCrc.extractLsb' 16 8, p.sentinelCrc.extractLsb' 8 8,
        p.sentinelCrc.extractLsb' 0 8]

/-- The framer as FR_BEGIN leaves it, with the stream region `[BASE, lim)` (R160). -/
def State.beginStream (s : State) (mode : BitVec 2) (lim : Nat) : State :=
  { s with
    pos := s.base
    limit := BitVec.ofNat 32 lim
    frmode := mode
    seen := 0
    ecnt := 0
    frstate := FrState.devid }

/-- FR_BEGIN (R160). MODE 3 is no command of the encoding: the word is illegal (30_encoding.md R86 step 5, R94). -/
def execFrBegin (mode : BitVec 2) (s : State) : Result :=
  if mode = FrMode.pack ∨ mode = FrMode.unpack then
    if s.base.toNat + s.len.toNat > s.bufBytes then .next (s.raise .bufferBounds)
    else .next (s.beginStream mode (s.base.toNat + s.len.toNat)).ok
  else if mode = FrMode.length then .next (s.beginStream mode (2 ^ 32 - 1)).ok
  else .next (s.raise .illegalCommand)

/-- PUT_DEVID (R161). -/
def execPutDevid (s : State) : Result :=
  let p := s.pos.toNat
  if !s.putReady FrState.devid then .next (s.raise .badSequence)
  else if p + 4 > s.limit.toNat then .next (s.raise .bufferBounds)
  else
    s.emit 4
      (fun t => t.memWrite p (wordBytes s.devid))
      (fun t => (t.advance (p + 4) FrState.hdr).ok)

/-- PUT_HDR (R162): the header, then the body area zeroed; POS stops at the body. -/
def execPutHdr (s : State) : Result :=
  let p := s.pos.toNat
  let body := s.hlen.toNat * 4
  if !s.putReady FrState.hdr then .next (s.raise .badSequence)
  else if s.hlen = 0 then .next (s.raise .badOperand)
  else if p + 12 + body > s.limit.toNat then .next (s.raise .bufferBounds)
  else
    s.emit (12 + body)
      (fun t =>
        ((t.memWrite p (hdrBytes s.blkid s.hlen)).memWrite (p + 12) (List.replicate body 0)).setCrc
          (crcOf ((hdrBytes s.blkid s.hlen).take 8)))
      (fun t => (t.advance (p + 12) FrState.body).ok)

/-- PUT_BODYCRC (R163): the trailing CRC of the body `[POS, POS + HLEN*4)`, HLEN as it stands now. -/
def execPutBodycrc (s : State) : Result :=
  let p := s.pos.toNat
  let body := s.hlen.toNat * 4
  if !s.putReady FrState.body then .next (s.raise .badSequence)
  else if s.hlen = 0 then .next (s.raise .badOperand)
  else if p + body + 4 > s.limit.toNat then .next (s.raise .bufferBounds)
  else
    s.emit (body + 4)
      (fun t =>
        let c := crcOf (s.memRead p body)
        (t.memWrite (p + body) (wordBytes c)).setCrc c)
      (fun t => (t.advance (p + body + 4) FrState.hdr).ok)

/-- PUT_END (R164): the sentinel. -/
def execPutEnd (s : State) : Result :=
  let p := s.pos.toNat
  if !s.putReady FrState.hdr then .next (s.raise .badSequence)
  else if p + 12 > s.limit.toNat then .next (s.raise .bufferBounds)
  else
    s.emit 12
      (fun t => t.memWrite p (sentinelBytes s.params))
      (fun t => (t.advance (p + 12) FrState.done).ok)

end Sys2Proof.Machine
end

