-- ==== Sys2Proof/Machine/Packing.lean ====
section
/-! DEFINITION. PACK and UNPACK (40_packing.md R128, R129). -/

namespace Sys2Proof.Machine

/-- The tests of PACK and UNPACK in the order of R230: `Check` (R120), then the span (R128). -/
def fieldError (op : Direction) (q : Quirks) (s : State) : Option ErrorKind :=
  (check op s.value.toNat s.start.toNat s.endBit.toNat s.len.toNat q).or
    (if s.base.toNat + s.len.toNat > s.bufBytes then some .bufferBounds else none)

/-- PACK (R128). -/
def execPack (q : Quirks) (s : State) : Result :=
  match fieldError .pack q s with
  | some k => .next (s.raise k)
  | none => .next (s.packField q).ok

/-- UNPACK (R129): VALUE gets the field, zero-extended to 64 bits. -/
def execUnpack (q : Quirks) (s : State) : Result :=
  match fieldError .unpack q s with
  | some k => .next (s.raise k)
  | none => .next (s.setValue (BitVec.ofNat 64 (s.unpackField q))).ok

end Sys2Proof.Machine
end

