-- ==== Sys2Proof/Machine/Parse.lean ====
section
/-! DEFINITION. The framer, parse direction: GET_DEVID, GET_HDR, GET_BODY (43_framer_parse.md R188, R190, R192). A guard
`LIMIT - x < k` is written `LIMIT < x + k`, the same over the integers (00_scope.md R7). -/

namespace Sys2Proof.Machine

/-- GET_DEVID (R188). -/
def execGetDevid (s : State) : Result :=
  let p := s.pos.toNat
  if !s.getReady FrState.devid then .next (s.raise .badSequence)
  else if s.limit.toNat < p + 4 then .next (s.fail .unexpectedEndOfBuffer)
  else s.within p 4 (
    let t := s.setDevid (wordOf (s.memRead p 4))
    if t.devid ∉ t.params.deviceIds then .next (t.fail .invalidDeviceId)
    else .next (t.advance (p + 4) FrState.hdr).ok)

/-- The header fields BLKID, HLEN and RDCRC read from the 12 bytes `h` (R190, 42_framer_emit.md R155). -/
def State.readHeader (s : State) (h : List Byte) : State :=
  { s with
    blkid := BitVec.ofNat 8 (unpack h 31 24 lswOnly)
    hlen := BitVec.ofNat 24 (unpack h 55 32 lswOnly)
    rdcrc := BitVec.ofNat 32 (unpack h 95 64 lswOnly) }

/-- SEEN with bit `blk` set (R194). -/
def seenWith (seen : BitVec 256) (blk : Byte) : BitVec 256 := seen ||| (1#256 <<< blk.toNat)

/-- GET_HDR on a sentinel, the fields read and HLEN = 0 (R190 test 2). -/
def State.acceptSentinel (s : State) : State :=
  if s.pos.toNat + 12 ≠ s.limit.toNat then s.fail .extraBytesAtEndOfBuffer
  else (s.advance (s.pos.toNat + 12) FrState.done).ok

/-- GET_HDR on a table header, the fields read and CRC computed (R190 tests 3 to 6). -/
def State.acceptHeader (s : State) : State :=
  if s.crc ≠ s.rdcrc then s.fail .invalidTableHeaderCrc
  else if s.limit.toNat < s.pos.toNat + 12 + s.hlen.toNat * 4 then s.fail .unexpectedEndOfBuffer
  else if (entrySize s.params s.devid s.blkid).isNone then s.fail .tableHeaderUnknown
  else if s.seen.getLsbD s.blkid.toNat then s.fail .tableHeaderDuplicate
  else ((s.setSeen (seenWith s.seen s.blkid)).advance (s.pos.toNat + 12) FrState.body).ok

/-- GET_HDR (R190). -/
def execGetHdr (s : State) : Result :=
  let p := s.pos.toNat
  if !s.getReady FrState.hdr then .next (s.raise .badSequence)
  else if s.limit.toNat < p + 12 then .next (s.fail .unexpectedEndOfBuffer)
  else s.within p 12 (
    let h := s.memRead p 12
    let t := s.readHeader h
    if t.hlen = 0 then .next t.acceptSentinel
    else .next (t.setCrc (crcOf (h.take 8))).acceptHeader)

/-- What ECNT holds after a body of `n` entries is accepted, `old` being what it held (R192). A count that is no 24-bit
number has no stated result: a free value (DESIGN CHOICE, log entry 3). -/
def entryCount (n : Nat) (old : BitVec 24) : BitVec 24 :=
  if n < 2 ^ 24 then BitVec.ofNat 24 n else Config.ecntUnfit n old

/-- ECNT gets the entry count `n` of an accepted body, nothing else changing (R192). -/
def State.countEntries (s : State) (n : Nat) : State := { s with ecnt := entryCount n s.ecnt }

/-- GET_BODY on a body of `n` bytes whose entry size is `es` and whose trailing CRC lies below LIMIT (R192 test 3). -/
def State.acceptBody (s : State) (n es : Nat) : State :=
  let p := s.pos.toNat
  let t := s.setCrcs (crcOf (s.memRead p n)) (wordOf (s.memRead (p + n) 4))
  if t.crc ≠ t.rdcrc then t.fail .dataCrcInvalid
  else ((t.countEntries (n / es)).advance (p + n + 4) FrState.hdr).ok

/-- GET_BODY (R192). -/
def execGetBody (s : State) : Result :=
  let p := s.pos.toNat
  let n := s.hlen.toNat * 4
  if !s.getReady FrState.body then .next (s.raise .badSequence)
  else match entrySize s.params s.devid s.blkid with
    | none => .next (s.fail .incorrectTableLength)
    | some es =>
      if n % es ≠ 0 then .next (s.fail .incorrectTableLength)
      else if s.limit.toNat < p + n + 4 then .next (s.fail .unexpectedEndOfBuffer)
      else s.within p (n + 4) (.next (s.acceptBody n es))

end Sys2Proof.Machine
end

