-- ==== Sys2Proof/Machine/System.lean ====
section
/-! DEFINITION. NOP (44_system.md R210), and what an illegal command word does (30_encoding.md R94). -/

namespace Sys2Proof.Machine

/-- NOP (R210): STATUS gets OK and nothing else changes. -/
def execNop (s : State) : Result := .next s.ok

/-- An illegal command word (R94): `IllegalCommand`, and nothing else changes. -/
def execIllegal (s : State) : Result := .next (s.raise .illegalCommand)

end Sys2Proof.Machine
end

