-- ==== Sys2Proof/Machine/Dispatch.lean ====
section
/-! DEFINITION. The meaning of every command (30_encoding.md R92, 44_system.md R211). -/

namespace Sys2Proof.Machine

/-- What the command `i` does in state `s` (R211). -/
def exec (i : Instr) (s : State) : Host.Outcome State Fault Refusal :=
  match i with
  | .nop => Sys2Proof.Machine.execNop s
  | .pack q => Sys2Proof.Machine.execPack q s
  | .unpack q => Sys2Proof.Machine.execUnpack q s
  | .crc32 => Sys2Proof.Machine.execCrc32 s
  | .frBegin mode => Sys2Proof.Machine.execFrBegin mode s
  | .putDevid => Sys2Proof.Machine.execPutDevid s
  | .putHdr => Sys2Proof.Machine.execPutHdr s
  | .putBodycrc => Sys2Proof.Machine.execPutBodycrc s
  | .putEnd => Sys2Proof.Machine.execPutEnd s
  | .getDevid => Sys2Proof.Machine.execGetDevid s
  | .getHdr => Sys2Proof.Machine.execGetHdr s
  | .getBody => Sys2Proof.Machine.execGetBody s

end Sys2Proof.Machine
end

