-- ==== Sys2Proof/Machine/HostPort.lean ====
section
/-! DEFINITION. The host port (20_memory.md R60 to R63), the reset event (70_reset_and_hazards.md R250, R251) and taking
the next pending event. -/

namespace Sys2Proof.Machine

/-- `RegWrite(n, v)` (10_state.md R36, R31). The model refuses a number above 17 and a read-only register (U9). -/
def hostRegWrite (n v : Nat) (s : State) : Result :=
  match Reg.ofNumber? n with
  | none => .refused (.registerUnassigned n)
  | some r => if r.access = .readOnly then .refused (.registerReadOnly n) else .next (s.writeReg r v)

/-- `RegRead(n)` (R36): the register goes to the host and nothing changes. -/
def hostRegRead (n : Nat) (s : State) : Result :=
  match Reg.ofNumber? n with
  | none => .refused (.registerUnassigned n)
  | some r => .next (s.answer (.register (s.readReg r)))

/-- `BufWrite(a, b)` (R60, R61). -/
def hostBufWrite (a : Nat) (b : Byte) (s : State) : Result :=
  if a < s.bufBytes then .next (s.putByte a b) else .refused (.bufferBeyondEnd a)

/-- `BufRead(a)` (R60, R61): the byte goes to the host and nothing changes. -/
def hostBufRead (a : Nat) (s : State) : Result :=
  if a < s.bufBytes then .next (s.answer (.byte (s.bufByte a))) else .refused (.bufferBeyondEnd a)

/-- `Cmd(w)` (R60, 44_system.md R211): decode, and execute the command or report the illegal word. -/
def hostCmd (w : Word) (s : State) : Result :=
  match decode w with
  | .ok i => exec i s
  | .error _ => execIllegal s

/-- One host port operation (R60, R211). -/
def perform (o : HostOp) (s : State) : Result :=
  match o with
  | .regWrite n v => hostRegWrite n v s
  | .regRead n => hostRegRead n s
  | .bufWrite a b => hostBufWrite a b s
  | .bufRead a => hostBufRead a s
  | .cmd w => hostCmd w s

/-- The external reset (R250, R251): every register 0 and BUF unspecified anew. The parameters and what the outside
world does next are not the block's and stay. -/
def State.afterReset (s : State) : State :=
  { State.reset with params := s.params, resets := s.resets + 1, pending := s.pending }

/-- `s` with the oldest pending event taken and `rest` left; no read has answered yet. -/
def State.taken (s : State) (rest : List Event) : State := { s with pending := rest, reply := none }

/-- What one pending event does. -/
def takeEvent (e : Event) (s : State) : Result :=
  match e with
  | .op o => perform o s
  | .reset => .next s.afterReset

/-- One step: the oldest pending event. With none the block is idle and keeps its state (60_exceptions.md R236). -/
def takeNext (s : State) : Result :=
  match s.pending with
  | [] => .next s
  | e :: rest => takeEvent e (s.taken rest)

/-- `s` with the host about to issue the command word `w`. -/
def State.issue (s : State) (w : Word) : State := { s with pending := .op (.cmd w) :: s.pending }

end Sys2Proof.Machine
end

