-- ==== Sys2Proof/Machine/Step.lean ====
section
/-! DEFINITION. One step of the machine: one host port operation (00_scope.md R14, 20_memory.md R60) or the external reset
(70_reset_and_hazards.md R250), the oldest one pending. -/

namespace Sys2Proof.Machine

/-- One step (R14, 44_system.md R211). -/
def step (s : State) : Host.Outcome State Fault Refusal := takeNext s

/-- `s` with the instruction whose `nbits` bits are `w` next on the command port (log entry 4). -/
def State.withFetchWord (s : State) (nbits w : Nat) : State := s.issue (portWord nbits w)

end Sys2Proof.Machine
end

