-- ==== Sys2Proof/Machine/Stream.lean ====
section
/-! DEFINITION. The stream as pure functions: `Frame` (42_framer_emit.md R158), `GetLength` (R170), `Deframe`
(43_framer_parse.md R196), and the host's canonical emit and parse sequences (R165, R195). -/

namespace Sys2Proof.Machine

/-- A table of a stream: its block id and its body (R158). -/
abbrev Block := Byte × List Byte

/-- What a table of the stream is: header, body, trailing CRC; nothing for an empty body (R158). -/
def blockBytes (b : Block) : List Byte :=
  if b.2.length = 0 then []
  else hdrBytes b.1 (BitVec.ofNat 24 (b.2.length / 4)) ++ b.2 ++ wordBytes (crcOf b.2)

/-- `Frame` (R158). -/
def frame (p : Params) (devid : Word) (blocks : List Block) : List Byte :=
  wordBytes devid ++ blocks.flatMap blockBytes ++ sentinelBytes p

/-- The stream bytes a table takes (R170). -/
def blockLength (b : Block) : Nat := if b.2.length = 0 then 0 else 12 + b.2.length + 4

/-- `GetLength` (R170). -/
def getLength (blocks : List Block) : Nat := 4 + (blocks.map blockLength).sum + 12

/-- The span `s[p .. p+n-1]` of a byte string. -/
def slice (s : List Byte) (p n : Nat) : List Byte := (s.drop p).take n

/-- The loop of `Deframe` (R196) from offset `p`. Every pass takes at least 16 bytes, so that `fuel` above a sixteenth of
the length never ends it early (log entry 17). -/
def deframeLoop (ps : Params) (devid : Word) (s : List Byte) (fuel p : Nat) (seen : List Byte) (blocks : List Block) :
    Except (ErrorKind × Nat) (Word × List Block) :=
  match fuel with
  | 0 => .error (.unexpectedEndOfBuffer, p)
  | fuel + 1 =>
    if s.length < p + 12 then .error (.unexpectedEndOfBuffer, p)
    else
      let blk := s.getD p 0
      let n := 4 * ((s.getD (p + 5) 0).toNat * 65536 + (s.getD (p + 6) 0).toNat * 256 + (s.getD (p + 7) 0).toNat)
      let q := p + 12
      if n = 0 then
        if p + 12 ≠ s.length then .error (.extraBytesAtEndOfBuffer, p) else .ok (devid, blocks)
      else if crcOf (slice s p 8) ≠ wordOf (slice s (p + 8) 4) then .error (.invalidTableHeaderCrc, p)
      else if s.length < q + n then .error (.unexpectedEndOfBuffer, p)
      else match entrySize ps devid blk with
        | none => .error (.tableHeaderUnknown, p)
        | some es =>
          if blk ∈ seen then .error (.tableHeaderDuplicate, p)
          else if n % es ≠ 0 then .error (.incorrectTableLength, q)
          else if s.length < q + n + 4 then .error (.unexpectedEndOfBuffer, q)
          else if crcOf (slice s q n) ≠ wordOf (slice s (q + n) 4) then .error (.dataCrcInvalid, q)
          else deframeLoop ps devid s fuel (q + n + 4) (blk :: seen) (blocks ++ [(blk, slice s q n)])

/-- `Deframe` (R196): the device id and the tables, or the error kind and the offset of the element being parsed. -/
def deframe (ps : Params) (s : List Byte) : Except (ErrorKind × Nat) (Word × List Block) :=
  if s.length < 4 then .error (.unexpectedEndOfBuffer, 0)
  else if wordOf (slice s 0 4) ∉ ps.deviceIds then .error (.invalidDeviceId, 0)
  else deframeLoop ps (wordOf (slice s 0 4)) s (s.length / 16 + 1) 4 [] []

/-! ### The host's sequences -/

/-- The host deposits a body at `a`, byte by byte (R165). -/
def depositBody (a : Nat) (body : List Byte) : List Event :=
  match body with
  | [] => []
  | b :: rest => .op (.bufWrite a b) :: depositBody (a + 1) rest

/-- The host operations that emit the tables, POS being `p` at the first (R165). -/
def emitBlocks (p : Nat) (blocks : List Block) : List Event :=
  match blocks with
  | [] => []
  | (blk, body) :: rest =>
    if body.length = 0 then emitBlocks p rest
    else
      .op (.regWrite 8 blk.toNat) :: .op (.regWrite 9 (body.length / 4)) :: .op (.cmd 0x12)
        :: (depositBody (p + 12) body ++ .op (.cmd 0x13) :: emitBlocks (p + 12 + body.length + 4) rest)

/-- The canonical emit sequence (R165), in a stream region of `cap` bytes at `b`. -/
def emitSequence (b cap : Nat) (devid : Word) (blocks : List Block) : List Event :=
  .op (.regWrite 3 b) :: .op (.regWrite 4 cap) :: .op (.cmd 0x10) :: .op (.regWrite 7 devid.toNat) :: .op (.cmd 0x11)
    :: (emitBlocks (b + 4) blocks ++ [.op (.cmd 0x14)])

/-- The host operations of R171 for the tables: as `emitBlocks`, with no body deposited. -/
def lengthBlocks (blocks : List Block) : List Event :=
  match blocks with
  | [] => []
  | (blk, body) :: rest =>
    if body.length = 0 then lengthBlocks rest
    else
      .op (.regWrite 8 blk.toNat) :: .op (.regWrite 9 (body.length / 4)) :: .op (.cmd 0x12) :: .op (.cmd 0x13)
        :: lengthBlocks rest

/-- The length sequence (R171): the canonical emit sequence with `fr_begin length` and no body deposited. -/
def lengthSequence (b cap : Nat) (devid : Word) (blocks : List Block) : List Event :=
  .op (.regWrite 3 b) :: .op (.regWrite 4 cap) :: .op (.cmd 0x2010) :: .op (.regWrite 7 devid.toNat)
    :: .op (.cmd 0x11) :: (lengthBlocks blocks ++ [.op (.cmd 0x14)])

/-- How the canonical parse sequence (R195) ended: the state it left, and the bodies the host collected. -/
abbrev ParseEnd := State × List Block

/-- The loop of R195 from a state that expects a header: `get_hdr`, stop on S_DONE or S_FAILED, else `get_body`, stop if
STATUS is not OK, collect the body and go round. `none` if a command answers no next state. -/
def parseLoop (fuel : Nat) (s : State) (got : List Block) : Option ParseEnd :=
  match fuel with
  | 0 => some (s, got)
  | fuel + 1 =>
    match exec .getHdr s with
    | .next t =>
      if t.frstate ≠ FrState.body then some (t, got)
      else match exec .getBody t with
        | .next u =>
          if u.status ≠ statusOk then some (u, got)
          else
            let n := u.hlen.toNat * 4
            parseLoop fuel u (got ++ [(u.blkid, u.memRead (u.pos.toNat - 4 - n) n)])
        | .fault _ => none
        | .refused _ => none
    | .fault _ => none
    | .refused _ => none

/-- The canonical parse sequence (R195) from `fr_begin unpack` on, BASE and LEN naming the stream. -/
def parseSequence (s : State) : Option ParseEnd :=
  match exec (.frBegin FrMode.unpack) s with
  | .next t =>
    match exec .getDevid t with
    | .next u => if u.status ≠ statusOk then some (u, []) else parseLoop (s.len.toNat / 16 + 1) u []
    | .fault _ => none
    | .refused _ => none
  | .fault _ => none
  | .refused _ => none

end Sys2Proof.Machine
end

