-- ==== Sys2Proof/Safety.lean ====
section
/-! DEFINITION. What holds in every state of the block (10_state.md R43), what a safe step is (20_memory.md R74,
60_exceptions.md R220), what a command leaves as it was, and the conditions and results the statements name. -/

namespace Sys2Proof.Machine

/-! ### Invariant and safety -/

/-- STATUS holds 0x00 or the code of an error kind (10_state.md R30, 60_exceptions.md R221). -/
def legalStatus (v : BitVec 8) : Prop := v = statusOk ∨ ∃ k : ErrorKind, v = statusOf k

/-- The invariants of 10_state.md R43, those of R31 (the ESTICKY bits that are no error code are 0) and 44_system.md R213
(S_FAILED only in mode UNPACK), and the canonical form of BUF, of which only bytes that exist are listed (R41). -/
structure State.Inv (s : State) : Prop where
  pos_le_limit : s.pos.toNat ≤ s.limit.toNat
  frstate_legal : s.frstate.toNat ≤ 5
  frmode_legal : s.frmode.toNat ≤ 2
  status_legal : legalStatus s.status
  sticky_codes : s.esticky &&& ~~~stickyMask = 0
  limit_in_buf : s.frmode ≠ FrMode.length → s.frstate ≠ FrState.idle → s.limit.toNat ≤ s.bufBytes
  failed_in_unpack : s.frstate = FrState.failed → s.frmode = FrMode.unpack
  buf_wf : s.buf.wf
  buf_exists : ∀ c ∈ s.buf, c.1 < s.bufBytes

/-- An outcome that is no fault: the next state, or the host operation turned away. -/
def Safe (o : Result) : Prop := ∀ f, o ≠ .fault f

/-! ### Frames -/

/-- `t` differs from `s` at most in the registers `regs` and the bytes `stored`: every other register and BUF byte
reads as before, and the model's own fields are unchanged. -/
structure ChangesOnly (regs : List Reg) (stored : Nat → Prop) (s t : State) : Prop where
  regs_kept : ∀ r, r ∉ regs → t.readReg r = s.readReg r
  bytes_kept : ∀ a, ¬ stored a → t.bufByte a = s.bufByte a
  params_kept : t.params = s.params
  resets_kept : t.resets = s.resets
  pending_kept : t.pending = s.pending
  reply_kept : t.reply = s.reply

/-- No byte is stored. -/
def noByte (_ : Nat) : Prop := False

/-- The bytes of the span `[a, a + n)`. -/
def inSpan (a n : Nat) (x : Nat) : Prop := a ≤ x ∧ x < a + n

/-- `s` with the code `c` reported in STATUS and ESTICKY and nothing else changed (60_exceptions.md R224). -/
def reported (s : State) (c : Nat) : State :=
  { s with status := BitVec.ofNat 8 c, esticky := s.esticky ||| BitVec.ofNat 32 (2 ^ c) }

/-- `s` with the framing error `c` reported and the framer in S_FAILED (R224). -/
def failedWith (s : State) (c : Nat) : State := { reported s c with frstate := FrState.failed }

/-! ### Numbers and bytes, written without the packing primitive -/

/-- A byte string as one big-endian number (00_scope.md R10). -/
def beNat (l : List Byte) : Nat := l.foldl (fun n b => n * 256 + b.toNat) 0

/-- The four bytes of a word, most significant first (41_crc32.md R145). -/
def bigEndian4 (w : Word) : List Byte :=
  [w.extractLsb' 24 8, w.extractLsb' 16 8, w.extractLsb' 8 8, w.extractLsb' 0 8]

/-- The first 8 bytes of a table header (42_framer_emit.md R155). -/
def header8 (blk : Byte) (len : BitVec 24) : List Byte :=
  [blk, 0, 0, 0, 0, len.extractLsb' 16 8, len.extractLsb' 8 8, len.extractLsb' 0 8]

/-- A byte string with bit `b` of byte `i` inverted. -/
def flipBit (s : List Byte) (i b : Nat) : List Byte := s.set i (s.getD i 0 ^^^ (1#8 <<< b))

/-! ### Command words -/

/-- The illegal words of 30_encoding.md R94, clause by clause. -/
abbrev illegalWord (w : Word) : Prop :=
  w.toNat / 2 ^ 14 ≠ 0 ∨ w.toNat / 2 ^ 11 % 2 = 1 ∨
  w.toNat % 256 ∉ [0x00, 0x02, 0x03, 0x04, 0x10, 0x11, 0x12, 0x13, 0x14, 0x19, 0x1A, 0x1B] ∨
  (w.toNat / 2 ^ 8 % 8 ≠ 0 ∧ w.toNat % 256 ∉ [0x02, 0x03]) ∨
  (w.toNat / 2 ^ 12 % 4 ≠ 0 ∧ w.toNat % 256 ≠ 0x10) ∨
  (w.toNat % 256 = 0x10 ∧ w.toNat / 2 ^ 12 % 4 = 3)

/-! ### PACK and UNPACK -/

/-- The width of the field that START and END name (40_packing.md R111), where START is not below END. -/
def State.fieldWidth (s : State) : Nat := s.start.toNat - s.endBit.toNat + 1

/-- The conditions under which UNPACK succeeds (R129), and PACK with `State.valueFits` (R128). -/
abbrev State.fieldLegal (s : State) (q : Quirks) : Prop :=
  s.endBit.toNat ≤ s.start.toNat ∧ s.fieldWidth ≤ 64 ∧ ((q.le ∨ q.lsw) → s.len.toNat % 4 = 0) ∧
  s.start.toNat < 8 * s.len.toNat ∧ s.base.toNat + s.len.toNat ≤ s.bufBytes

/-- VALUE fits the field (R123); a 64-bit field takes any value. -/
abbrev State.valueFits (s : State) : Prop := s.fieldWidth < 64 → s.value.toNat < 2 ^ s.fieldWidth

/-- `L` is a logical bit of the field (R111). -/
abbrev State.inField (s : State) (L : Nat) : Prop := s.endBit.toNat ≤ L ∧ L ≤ s.start.toNat

/-- The BUF address that holds logical bit `L` of the packed buffer (R130, R133). -/
def State.bitAddr (s : State) (q : Quirks) (L : Nat) : Nat := s.base.toNat + physAddr (L / 8) s.len.toNat q

/-- The bytes PACK stores to: those that hold a bit of the field (20_memory.md R72). -/
def State.fieldBytes (s : State) (q : Quirks) (a : Nat) : Prop := ∃ L, s.inField L ∧ a = s.bitAddr q L

/-- The same conditions for the pure functions: `Check(PACK, v, start, end, n, q)` passes (R120). -/
abbrev packLegal (v : BitVec 64) (start endBit n : Nat) (q : Quirks) : Prop :=
  endBit ≤ start ∧ start - endBit + 1 ≤ 64 ∧ (start - endBit + 1 < 64 → v.toNat < 2 ^ (start - endBit + 1)) ∧
  ((q.le ∨ q.lsw) → n % 4 = 0) ∧ start < 8 * n

/-- Bit `p` of byte `a` of a byte string. -/
def bitAt (s : List Byte) (a p : Nat) : Bool := (s.getD a 0).getLsbD p

/-- Bit `p` of byte `a` of a buffer of `n` bytes is in the physical image of the field `[start:end]` (R126, R130). -/
def inImage (start endBit n : Nat) (q : Quirks) (a p : Nat) : Prop :=
  ∃ L, endBit ≤ L ∧ L ≤ start ∧ a = physAddr (L / 8) n q ∧ p = physBit (L % 8) q

/-- The bytes of the given significance ranks of a value whose byte of rank `r` is `r`, each reversed if `m` (20_memory.md
R67). -/
def rankBytes (m : Bool) (ranks : List Nat) : List Byte :=
  ranks.map (fun r => if m then (BitVec.ofNat 8 r).reverse else BitVec.ofNat 8 r)

/-! ### The framer -/

/-- The seven framing commands besides FR_BEGIN (44_system.md R213). -/
def framingCommands : List Instr :=
  [.putDevid, .putHdr, .putBodycrc, .putEnd, .getDevid, .getHdr, .getBody]

/-- The table of 44_system.md R213: the states a framing command may go to when it ends OK, by FRMODE and FRSTATE; none
where the entry is `seq`. -/
def nextStates (mode : BitVec 2) (st : BitVec 3) (i : Instr) : List (BitVec 3) :=
  match i with
  | .putDevid => if mode ≠ FrMode.unpack ∧ st = FrState.devid then [FrState.hdr] else []
  | .putHdr => if mode ≠ FrMode.unpack ∧ st = FrState.hdr then [FrState.body] else []
  | .putBodycrc => if mode ≠ FrMode.unpack ∧ st = FrState.body then [FrState.hdr] else []
  | .putEnd => if mode ≠ FrMode.unpack ∧ st = FrState.hdr then [FrState.done] else []
  | .getDevid => if mode = FrMode.unpack ∧ st = FrState.devid then [FrState.hdr] else []
  | .getHdr => if mode = FrMode.unpack ∧ st = FrState.hdr then [FrState.body, FrState.done] else []
  | .getBody => if mode = FrMode.unpack ∧ st = FrState.body then [FrState.hdr] else []
  | .frBegin _ => [FrState.devid]
  | .nop => [st]
  | .pack _ => [st]
  | .unpack _ => [st]
  | .crc32 => [st]

/-- The framer may emit its next element, in state `st` and with `n` bytes of room (42_framer_emit.md R159). -/
abbrev State.canEmit (s : State) (st : BitVec 3) (n : Nat) : Prop :=
  s.frmode ≠ FrMode.unpack ∧ s.frstate = st ∧ s.pos.toNat + n ≤ s.limit.toNat

/-- The framer parses, in state `st`, and `n` more bytes remain (43_framer_parse.md R186, R187). -/
abbrev State.canParse (s : State) (st : BitVec 3) (n : Nat) : Prop :=
  s.frmode = FrMode.unpack ∧ s.frstate = st ∧ s.pos.toNat + n ≤ s.limit.toNat

/-- The bytes of the element at POS that a PUT command stores, in mode PACK only (20_memory.md R73). -/
def State.emitted (s : State) (n : Nat) (a : Nat) : Prop := s.frmode = FrMode.pack ∧ inSpan s.pos.toNat n a

/-- The 12 header bytes at POS, and the fields in them (42_framer_emit.md R155). -/
def State.hdrAtPos (s : State) : List Byte := s.memRead s.pos.toNat 12
def State.hdrBlk (s : State) : Byte := s.hdrAtPos.getD 0 0
def State.hdrLen (s : State) : Nat := beNat ((s.hdrAtPos.drop 5).take 3)
def State.hdrRdcrc (s : State) : Word := BitVec.ofNat 32 (beNat (s.hdrAtPos.drop 8))
def State.hdrOwnCrc (s : State) : Word := crcOf (s.hdrAtPos.take 8)

/-- `s` with BLKID, HLEN and RDCRC read from the header at POS (43_framer_parse.md R190). -/
def State.withHdr (s : State) : State :=
  { s with blkid := s.hdrBlk, hlen := BitVec.ofNat 24 s.hdrLen, rdcrc := s.hdrRdcrc }

/-- The body at POS, its length, its CRC and the trailing CRC after it (43_framer_parse.md R192). -/
def State.bodyLen (s : State) : Nat := s.hlen.toNat * 4
def State.bodyCrc (s : State) : Word := crcOf (s.memRead s.pos.toNat s.bodyLen)
def State.trailingCrc (s : State) : Word :=
  BitVec.ofNat 32 (beNat (s.memRead (s.pos.toNat + s.bodyLen) 4))

/-! ### Streams -/

/-- The tables a stream can carry (42_framer_emit.md R158). -/
def blocksFramable (blocks : List Block) : Prop := ∀ b ∈ blocks, b.2.length % 4 = 0 ∧ b.2.length < 2 ^ 26

/-- The tables of 43_framer_parse.md R202: distinct ids, known to `devid`, with non-empty bodies of whole entries. -/
def blocksParsable (p : Params) (devid : Word) (blocks : List Block) : Prop :=
  (blocks.map (fun b => b.1)).Nodup ∧ blocksFramable blocks ∧
  ∀ b ∈ blocks, 0 < b.2.length ∧ ∃ es, entrySize p devid b.1 = some es ∧ b.2.length % es = 0

/-- Where the table after the tables `pre` starts in a stream (42_framer_emit.md R156). -/
def tableOffset (pre : List Block) : Nat := 4 + (pre.map blockLength).sum

/-- The `len` field of the header at offset `p` of a byte string (R155). -/
def lenFieldAt (s : List Byte) (p : Nat) : Nat := beNat (slice s (p + 5) 3)

end Sys2Proof.Machine
end

