-- ==== Sys2Proof/Certificates/Slice0/Obligations.lean ====
section
/-! DEFINITION. The statements for the provers, each a `def Obligations.<Name> : Prop`. OBLIGATIONS.json lists them with the
rules they formalise. -/

open Sys2Proof Sys2Proof.Machine

/-! ### Encoding -/

/-- 30_encoding.md R85, R86, R92: decoding the word of a well-formed command gives it back. -/
def Obligations.DecodeOfEncodeIsTheCommand : Prop :=
  ∀ i : Instr, i.wellFormed = true → decode (encode i) = .ok i

/-- R86: a word the decoder accepts is the encoding of the one command it answers, which is well formed. -/
def Obligations.DecodedWordIsTheEncodingOfItsCommand : Prop :=
  ∀ (w : Word) (i : Instr), decode w = .ok i → i.wellFormed = true ∧ encode i = w

/-- R94: the words that are no command are those of its list, and such a word, issued, reports 0x0B and changes nothing
else; a word outside the list is a command. -/
def Obligations.IllegalWordsOnlyReportIllegalCommand : Prop :=
  ∀ (w : Word) (s : State),
    (illegalWord w → hostCmd w s = .next (reported s 0x0B)) ∧ (¬ illegalWord w → ∃ i, decode w = .ok i)

/-- R92: a word is the command of a row of the table when `w and mask = match` (and, for FR_BEGIN, `MODE != 3`). -/
def Obligations.DecoderAgreesWithTheOpcodeTable : Prop :=
  ∀ (w : Word) (i : Instr),
    (∃ j, decode w = .ok j ∧ tableMatch j = tableMatch i) ↔
      (w &&& tableMask i = tableMatch i ∧ (tableMatch i = 0x10 → w.toNat / 2 ^ 12 % 4 ≠ 3))

/-- R90, R92, R93: words written out from the encoding decode to the commands they stand for. -/
def Obligations.WrittenOutWordsDecode : Prop :=
  decode 0x00000000 = .ok .nop ∧
  decode 0b00000000000000000000000100000010 = .ok (.pack ⟨true, false, false⟩) ∧
  decode 0b00000000000000000000001000000011 = .ok (.unpack ⟨false, true, false⟩) ∧
  decode 0b00000000000000000000010000000010 = .ok (.pack ⟨false, false, true⟩) ∧
  decode 0b00000000000000000010000000010000 = .ok (.frBegin 2) ∧
  decode 0b00000000000000000000000000010011 = .ok .putBodycrc ∧
  decode 0b00000000000000000000000000011010 = .ok .getHdr

/-! ### Steps, the host port, reset -/

/-- 44_system.md R211: when the oldest pending operation is `Cmd(w)` and `w` decodes to the well-formed command `i`, the
step is `exec i`, the operation being taken and no read having answered. -/
def Obligations.StepRunsTheDecodedCommand : Prop :=
  ∀ (s : State) (w : Word) (rest : List Event) (i : Instr),
    s.pending = .op (.cmd w) :: rest → decode w = .ok i → i.wellFormed = true →
    step s = exec i { s with pending := rest, reply := none }

/-- 30_encoding.md R94, 44_system.md R211: when the oldest pending operation is `Cmd(w)` and `w` is an illegal word, the step
reports 0x0B and changes no register or byte else. The list of pending operations and the cleared reply are the model's:
log entry 4. -/
def Obligations.StepReportsAnIllegalWord : Prop :=
  ∀ (s : State) (w : Word) (rest : List Event), s.pending = .op (.cmd w) :: rest → illegalWord w →
    step s = .next (reported { s with pending := rest, reply := none } 0x0B)

/-- The word of a well-formed command, put where the next step fetches, is the command that step runs; everything the
host had pending stays pending. The model's own: log entry 4. -/
def Obligations.FetchedEncodingRunsNext : Prop :=
  ∀ (s : State) (i : Instr), i.wellFormed = true →
    step (s.withFetchWord 32 (encode i).toNat) = exec i { s with reply := none }

/-- 60_exceptions.md R236: with nothing pending the block keeps every register and BUF byte. -/
def Obligations.IdleStepKeepsTheState : Prop :=
  ∀ s : State, s.pending = [] → step s = .next s

/-- 10_state.md R21: number, width and host access of every register; no register above 17; and what each register reads
as, the field of State of its name. -/
def Obligations.RegisterMapIsTheSpecs : Prop :=
  (∀ row ∈ ([(0, .value, 64, .readWrite), (1, .start, 32, .readWrite), (2, .endBit, 32, .readWrite),
      (3, .base, 32, .readWrite), (4, .len, 32, .readWrite), (5, .pos, 32, .readOnly), (6, .limit, 32, .readOnly),
      (7, .devid, 32, .readWrite), (8, .blkid, 8, .readWrite), (9, .hlen, 24, .readWrite), (10, .rdcrc, 32, .readOnly),
      (11, .crc, 32, .readOnly), (12, .ecnt, 24, .readOnly), (13, .status, 8, .readOnly),
      (14, .esticky, 32, .writeOneToClear), (15, .frstate, 3, .readOnly), (16, .frmode, 2, .readOnly),
      (17, .seen, 256, .readOnly)] : List (Nat × Reg × Nat × Access)),
    Reg.ofNumber? row.1 = some row.2.1 ∧ row.2.1.width = row.2.2.1 ∧ row.2.1.access = row.2.2.2) ∧
  (∀ n, 17 < n → Reg.ofNumber? n = none) ∧
  (∀ (s : State) (r : Reg), s.readReg r < 2 ^ r.width) ∧
  ∀ s : State,
    s.readReg .value = s.value.toNat ∧ s.readReg .start = s.start.toNat ∧ s.readReg .endBit = s.endBit.toNat ∧
    s.readReg .base = s.base.toNat ∧ s.readReg .len = s.len.toNat ∧ s.readReg .pos = s.pos.toNat ∧
    s.readReg .limit = s.limit.toNat ∧ s.readReg .devid = s.devid.toNat ∧ s.readReg .blkid = s.blkid.toNat ∧
    s.readReg .hlen = s.hlen.toNat ∧ s.readReg .rdcrc = s.rdcrc.toNat ∧ s.readReg .crc = s.crc.toNat ∧
    s.readReg .ecnt = s.ecnt.toNat ∧ s.readReg .status = s.status.toNat ∧ s.readReg .esticky = s.esticky.toNat ∧
    s.readReg .frstate = s.frstate.toNat ∧ s.readReg .frmode = s.frmode.toNat ∧ s.readReg .seen = s.seen.toNat

/-- R36, R31: a host write stores `v mod 2^N` in a read-write register and clears the bits of ESTICKY that are 1 in
`v`, each with nothing else changed; a read answers the register and changes nothing; a write to a read-only register
and any access above 17 are refused. The list of pending operations, the cleared reply and the reply of a read are the model's:
log entry 4; the named refusals, log entry 5. -/
def Obligations.HostRegisterAccess : Prop :=
  ∀ (s : State) (n v : Nat) (rest : List Event),
    (∀ r, s.pending = .op (.regWrite n v) :: rest → Reg.ofNumber? n = some r → r.access = .readWrite →
      ∃ t, step s = .next t ∧ t.readReg r = v % 2 ^ r.width ∧
        ChangesOnly [r] noByte { s with pending := rest, reply := none } t) ∧
    (s.pending = .op (.regWrite 14 v) :: rest →
      ∃ t, step s = .next t ∧ t.esticky = s.esticky &&& ~~~(BitVec.ofNat 32 v) ∧
        ChangesOnly [.esticky] noByte { s with pending := rest, reply := none } t) ∧
    (∀ r, s.pending = .op (.regRead n) :: rest → Reg.ofNumber? n = some r →
      step s = .next { s with pending := rest, reply := some (.register (s.readReg r)) }) ∧
    (∀ r, s.pending = .op (.regWrite n v) :: rest → Reg.ofNumber? n = some r → r.access = .readOnly →
      step s = .refused (.registerReadOnly n)) ∧
    (17 < n → (s.pending = .op (.regWrite n v) :: rest ∨ s.pending = .op (.regRead n) :: rest) →
      step s = .refused (.registerUnassigned n))

/-- 20_memory.md R60, R61: the host's buffer port writes and reads one byte of BUF; beyond BUF it is refused. The list
of pending operations and the reply are the model's: log entry 4; the named refusal, log entry 5. -/
def Obligations.HostBufferAccess : Prop :=
  ∀ (s : State) (a : Nat) (b : Byte) (rest : List Event),
    (s.pending = .op (.bufWrite a b) :: rest → a < s.bufBytes →
      ∃ t, step s = .next t ∧ t.bufByte a = b ∧
        ChangesOnly [] (fun x => x = a) { s with pending := rest, reply := none } t) ∧
    (s.pending = .op (.bufRead a) :: rest → a < s.bufBytes →
      step s = .next { s with pending := rest, reply := some (.byte (s.bufByte a)) }) ∧
    (s.bufBytes ≤ a → (s.pending = .op (.bufWrite a b) :: rest ∨ s.pending = .op (.bufRead a) :: rest) →
      step s = .refused (.bufferBeyondEnd a))

/-- 70_reset_and_hazards.md R250, R251: after reset, the first or a later one, every register reads 0 (STATUS OK, FRSTATE
IDLE, FRMODE PACK); a reset keeps the parameters. What BUF holds then is the model's free value (log entry 2). -/
def Obligations.ResetClearsEveryRegister : Prop :=
  (∀ r, State.reset.readReg r = 0) ∧
  ∀ (s : State) (rest : List Event), s.pending = .reset :: rest →
    ∃ t, step s = .next t ∧ (∀ r, t.readReg r = 0) ∧ t.params = s.params ∧ t.pending = rest ∧
      ∀ a, t.bufByte a = Config.resetByte (s.resets + 1) a

/-! ### Invariants and safety -/

/-- R43, R251: the invariants hold after reset. -/
def Obligations.ResetSatisfiesTheInvariants : Prop := State.reset.Inv

/-- 10_state.md R43: the invariants hold after every step. -/
def Obligations.StepKeepsTheInvariants : Prop :=
  ∀ s t : State, s.Inv → step s = .next t → t.Inv

/-- 20_memory.md R74, 60_exceptions.md R220: from a state with the invariants no step faults, so no command reaches
beyond BUF. The fault is the model's own: log entry 7. -/
def Obligations.NoStepLeavesBuf : Prop :=
  ∀ s : State, s.Inv → Safe (step s)

/-- 10_state.md R20: the parameters are fixed for the life of an instance. -/
def Obligations.StepKeepsTheParameters : Prop :=
  ∀ s t : State, step s = .next t → t.params = s.params

/-- 60_exceptions.md R220, R224, 10_state.md R30, R31: a command ends OK, with ESTICKY as it was, or with one error kind,
whose code is in STATUS and whose bit is set in ESTICKY. -/
def Obligations.EveryCommandEndsOkOrWithOneError : Prop :=
  ∀ (i : Instr) (s : State), s.Inv → ∃ t, exec i s = .next t ∧
    ((t.status = 0 ∧ t.esticky = s.esticky) ∨
     ∃ c ∈ [0x01, 0x02, 0x08, 0x09, 0x0A, 0x0B, 0x0C, 0x10, 0x11, 0x12, 0x13, 0x14, 0x15, 0x16, 0x17],
       t.status = BitVec.ofNat 8 c ∧ t.esticky = s.esticky ||| BitVec.ofNat 32 (2 ^ c))

/-- 60_exceptions.md R224, R225: a command that ends with a caller error changes STATUS and ESTICKY only. -/
def Obligations.CallerErrorsOnlyReport : Prop :=
  ∀ (i : Instr) (s t : State), exec i s = .next t → 0x01 ≤ t.status.toNat → t.status.toNat ≤ 0x0C →
    t = reported s t.status.toNat

/-- 43_framer_parse.md R186, 60_exceptions.md R225, R226: a framing error ends a GET command in mode UNPACK; FRSTATE becomes
S_FAILED, POS, LIMIT, SEEN, ECNT and BUF stay. -/
def Obligations.FramingErrorsFailTheParse : Prop :=
  ∀ (i : Instr) (s t : State), exec i s = .next t → 0x10 ≤ t.status.toNat →
    i ∈ [.getDevid, .getHdr, .getBody] ∧ s.frmode = FrMode.unpack ∧ t.frstate = FrState.failed ∧
    t.esticky = s.esticky ||| BitVec.ofNat 32 (2 ^ t.status.toNat) ∧
    ChangesOnly [.devid, .blkid, .hlen, .rdcrc, .crc, .status, .esticky, .frstate] noByte s t

/-- 44_system.md R213: the transition table of the framer. Under the invariants, a framing command at a `seq` entry reports
0x0A and changes nothing else; elsewhere it does not, and ending OK it goes where the table says, ending with a caller
error FRSTATE stays, ending with a framing error it is S_FAILED. No other command but FR_BEGIN changes FRSTATE, FR_BEGIN
ending OK gives S_DEVID, and IDLE is never entered again. -/
def Obligations.FramerFollowsTheTransitionTable : Prop :=
  ∀ (i : Instr) (s : State), s.Inv →
    (nextStates s.frmode s.frstate i = [] → exec i s = .next (reported s 0x0A)) ∧
    ∀ t, exec i s = .next t →
      (nextStates s.frmode s.frstate i ≠ [] → t.status.toNat ≠ 0x0A) ∧
      (t.status = 0 → t.frstate ∈ nextStates s.frmode s.frstate i) ∧
      (0x01 ≤ t.status.toNat → t.status.toNat ≤ 0x0C → t.frstate = s.frstate ∧ t.frmode = s.frmode) ∧
      (0x10 ≤ t.status.toNat → t.frstate = FrState.failed) ∧
      (t.frstate = FrState.idle → s.frstate = FrState.idle)

/-- 43_framer_parse.md R197: in S_FAILED every PUT and GET command reports 0x0A and changes nothing else, and every
command but FR_BEGIN leaves the framer in S_FAILED. -/
def Obligations.OnlyFrBeginLeavesFailed : Prop :=
  ∀ (i : Instr) (s : State), s.frstate = FrState.failed →
    (i ∈ framingCommands → exec i s = .next (reported s 0x0A)) ∧
    ∀ t, exec i s = .next t → (∀ m, i ≠ .frBegin m) → t.frstate = FrState.failed

/-- 10_state.md R38: every command but FR_BEGIN moves POS by 0, 4, 12 or `HLEN*4 + 4`, up and without wrapping. -/
def Obligations.CursorMovesByWholeElements : Prop :=
  ∀ (i : Instr) (s t : State), s.Inv → exec i s = .next t → (∀ m, i ≠ .frBegin m) →
    ∃ d ∈ [0, 4, 12, s.hlen.toNat * 4 + 4], t.pos.toNat = s.pos.toNat + d

/-- 43_framer_parse.md R194: a bit of SEEN that a command sets is the BLKID a GET_HDR has accepted, and only an FR_BEGIN
that ends OK clears bits, and it clears all. -/
def Obligations.SeenChangesOnlyByAcceptedHeaders : Prop :=
  ∀ (i : Instr) (s t : State), exec i s = .next t →
    (t.seen = s.seen) ∨
    (i = .getHdr ∧ t.status = 0 ∧ t.frstate = FrState.body ∧
      ∀ b : Byte, t.seen.getLsbD b.toNat = (s.seen.getLsbD b.toNat || b == t.blkid)) ∨
    ((∃ m, i = .frBegin m) ∧ t.status = 0 ∧ t.seen = 0)

/-! ### NOP, PACK, UNPACK, CRC32 -/

/-- 44_system.md R210: NOP, the all-zero word, writes OK to STATUS and touches nothing else. -/
def Obligations.NopOnlyWritesOk : Prop :=
  decode 0x00000000 = .ok .nop ∧ ∀ s : State, exec .nop s = .next { s with status := 0x00 }

/-- 40_packing.md R130: PACK, bit by bit. Under the conditions of R128 it completes; logical bit `L` of the field becomes
bit `L - END` of VALUE at its physical place, and every other bit of BUF and every register but STATUS stays. -/
def Obligations.PackSetsExactlyTheField : Prop :=
  ∀ (q : Quirks) (s : State), s.fieldLegal q → s.valueFits →
    ∃ t, exec (.pack q) s = .next t ∧ t.status = 0 ∧
      (∀ L, s.inField L →
        (t.bufByte (s.bitAddr q L)).getLsbD (physBit (L % 8) q) = s.value.getLsbD (L - s.endBit.toNat)) ∧
      (∀ a p, p < 8 → (∀ L, s.inField L → ¬ (a = s.bitAddr q L ∧ p = physBit (L % 8) q)) →
        (t.bufByte a).getLsbD p = (s.bufByte a).getLsbD p) ∧
      ChangesOnly [.status] (s.fieldBytes q) s t

/-- R128 in its own form: after PACK the packed buffer holds `Pack` of what it held. -/
def Obligations.PackWritesPackOfTheBuffer : Prop :=
  ∀ (q : Quirks) (s t : State), s.fieldLegal q → s.valueFits → exec (.pack q) s = .next t →
    t.memRead s.base.toNat s.len.toNat =
      pack (s.memRead s.base.toNat s.len.toNat) s.value.toNat s.start.toNat s.endBit.toNat q

/-- R129, R130: UNPACK, bit by bit. Under the conditions of R129 it completes; bit `k` of VALUE is the bit of BUF that
holds logical bit `END + k`, bits above the field are 0, and BUF and every other register but STATUS stay. -/
def Obligations.UnpackReadsExactlyTheField : Prop :=
  ∀ (q : Quirks) (s : State), s.fieldLegal q →
    ∃ t, exec (.unpack q) s = .next t ∧ t.status = 0 ∧
      (∀ k, t.value.getLsbD k =
        (decide (k < s.fieldWidth) &&
          (s.bufByte (s.bitAddr q (s.endBit.toNat + k))).getLsbD (physBit ((s.endBit.toNat + k) % 8) q))) ∧
      ChangesOnly [.value, .status] noByte s t

/-- R120, R121 to R123, 60_exceptions.md R230: the errors of PACK and UNPACK in their order. -/
def Obligations.PackAndUnpackErrors : Prop :=
  ∀ (q : Quirks) (s : State),
    (s.start.toNat < s.endBit.toNat →
      exec (.pack q) s = .next (reported s 0x01) ∧ exec (.unpack q) s = .next (reported s 0x01)) ∧
    (s.endBit.toNat ≤ s.start.toNat → 64 < s.fieldWidth →
      exec (.pack q) s = .next (reported s 0x02) ∧ exec (.unpack q) s = .next (reported s 0x02)) ∧
    (s.endBit.toNat ≤ s.start.toNat → s.fieldWidth ≤ 64 → ¬ s.valueFits →
      exec (.pack q) s = .next (reported s 0x02)) ∧
    (s.endBit.toNat ≤ s.start.toNat → s.fieldWidth ≤ 64 → (q.le ∨ q.lsw) → s.len.toNat % 4 ≠ 0 →
      (s.valueFits → exec (.pack q) s = .next (reported s 0x08)) ∧ exec (.unpack q) s = .next (reported s 0x08)) ∧
    (s.endBit.toNat ≤ s.start.toNat → s.fieldWidth ≤ 64 → ((q.le ∨ q.lsw) → s.len.toNat % 4 = 0) →
      (8 * s.len.toNat ≤ s.start.toNat ∨ s.bufBytes < s.base.toNat + s.len.toNat) →
      (s.valueFits → exec (.pack q) s = .next (reported s 0x09)) ∧ exec (.unpack q) s = .next (reported s 0x09))

/-- R126: the packing round trip on byte strings. -/
def Obligations.PackRoundTrip : Prop :=
  ∀ (s : List Byte) (v : BitVec 64) (start endBit : Nat) (q : Quirks), packLegal v start endBit s.length q →
    unpack (pack s v.toNat start endBit q) start endBit q = v.toNat ∧
    (pack s v.toNat start endBit q).length = s.length ∧
    (∀ a p, p < 8 → ¬ inImage start endBit s.length q a p →
      bitAt (pack s v.toNat start endBit q) a p = bitAt s a p) ∧
    ∀ t : List Byte, t.length = s.length →
      (∀ a p, p < 8 → ¬ inImage start endBit s.length q a p → bitAt t a p = bitAt s a p) →
      pack t (unpack s start endBit q) start endBit q = s

/-- R127: with no quirks the field goes into the buffer read as one big-endian number, at weights `2^end` to `2^start`;
value 1 at `[0:0]` of 4 zero bytes sets the last byte's LSB. -/
def Obligations.PlainPackIsBigEndian : Prop :=
  (∀ (s : List Byte) (v : BitVec 64) (start endBit : Nat), packLegal v start endBit s.length noQuirks →
    beNat (pack s v.toNat start endBit noQuirks) =
      beNat s / 2 ^ (start + 1) * 2 ^ (start + 1) + v.toNat * 2 ^ endBit + beNat s % 2 ^ endBit) ∧
  pack [0, 0, 0, 0] 1 0 0 noQuirks = [0, 0, 0, 1]

/-- R131, 70_reset_and_hazards.md R261: packs of disjoint fields under one quirk set commute; of two packs of one field
the later wins. -/
def Obligations.DisjointPacksCommute : Prop :=
  ∀ (s : List Byte) (v v' : BitVec 64) (start endBit start' endBit' : Nat) (q : Quirks),
    packLegal v start endBit s.length q → packLegal v' start' endBit' s.length q →
    ((start < endBit' ∨ start' < endBit) →
      pack (pack s v.toNat start endBit q) v'.toNat start' endBit' q =
        pack (pack s v'.toNat start' endBit' q) v.toNat start endBit q) ∧
    unpack (pack (pack s v.toNat start endBit q) v'.toNat start' endBit' q) start' endBit' q = v'.toNat

/-- 20_memory.md R64, 40_packing.md R124: where `Check` lets a buffer of `n` bytes pass, `PhysAddr(., n, q)` is a
bijection of `0..n-1` onto itself. -/
def Obligations.PhysAddrIsABijection : Prop :=
  ∀ (n : Nat) (q : Quirks), ((q.le ∨ q.lsw) → n % 4 = 0) →
    (∀ b, b < n → physAddr b n q < n) ∧
    (∀ b b', b < n → b' < n → physAddr b n q = physAddr b' n q → b = b') ∧
    ∀ a, a < n → ∃ b, b < n ∧ physAddr b n q = a

/-- R67: the eight layouts of an 8-byte buffer. -/
def Obligations.EightLayouts : Prop :=
  ∀ m : Bool,
    pack (List.replicate 8 0) 0x0706050403020100 63 0 ⟨m, false, false⟩ = rankBytes m [7, 6, 5, 4, 3, 2, 1, 0] ∧
    pack (List.replicate 8 0) 0x0706050403020100 63 0 ⟨m, true, false⟩ = rankBytes m [4, 5, 6, 7, 0, 1, 2, 3] ∧
    pack (List.replicate 8 0) 0x0706050403020100 63 0 ⟨m, false, true⟩ = rankBytes m [3, 2, 1, 0, 7, 6, 5, 4] ∧
    pack (List.replicate 8 0) 0x0706050403020100 63 0 ⟨m, true, true⟩ = rankBytes m [0, 1, 2, 3, 4, 5, 6, 7]

/-- 41_crc32.md R146: CRC32, word 0x00000004, writes `Crc` of the span to CRC and touches nothing else; a length that is no
multiple of 4 reports 0x08, then a span beyond BUF 0x09, with CRC unchanged; the empty span gives 0. -/
def Obligations.Crc32ChecksTheSpan : Prop :=
  decode 0x00000004 = .ok .crc32 ∧
  ∀ s : State,
    (s.len = 0 → s.base.toNat ≤ s.bufBytes → exec .crc32 s = .next { s with crc := 0x00000000, status := 0 }) ∧
    (s.len.toNat % 4 = 0 → s.base.toNat + s.len.toNat ≤ s.bufBytes →
      exec .crc32 s = .next { s with crc := crcOf (s.memRead s.base.toNat s.len.toNat), status := 0 }) ∧
    (s.len.toNat % 4 ≠ 0 → exec .crc32 s = .next (reported s 0x08)) ∧
    (s.len.toNat % 4 = 0 → s.bufBytes < s.base.toNat + s.len.toNat → exec .crc32 s = .next (reported s 0x09))

/-- R142: `Norm` is `s` with each aligned group of four bytes reversed. -/
def Obligations.NormReversesEachWord : Prop :=
  ∀ s : List Byte, s.length % 4 = 0 →
    (norm s).length = s.length ∧
    ∀ i j, 4 * i + 3 < s.length → j < 4 → (norm s)[4 * i + j]? = s[4 * i + (3 - j)]?

/-- R144 and the check value of R141: values of the CRC at the edges. -/
def Obligations.CrcEdgeValues : Prop :=
  crcOf [] = 0x00000000 ∧ crcOf [0, 0, 0, 0] = 0x2144DF1C ∧ crcOf [1, 2, 3, 4] = 0xE951A406 ∧
  crcOf [0x34, 0x33, 0x32, 0x31, 0x38, 0x37, 0x36, 0x35] = 0x9AE0DAAF ∧
  crc32Std [0x31, 0x32, 0x33, 0x34, 0x35, 0x36, 0x37, 0x38] = 0x9AE0DAAF ∧
  crc32Std [0x31, 0x32, 0x33, 0x34, 0x35, 0x36, 0x37, 0x38, 0x39] = 0xCBF43926

/-- R147: changing one bit of a span changes its `Crc`. -/
def Obligations.CrcDetectsEveryFlippedBit : Prop :=
  ∀ (s : List Byte) (i b : Nat), s.length % 4 = 0 → i < s.length → b < 8 → crcOf (flipBit s i b) ≠ crcOf s

/-! ### The framer, emit direction -/

/-- 42_framer_emit.md R160: FR_BEGIN, words `0x00000010 + 4096*m` with `m` in 0..2, in every framer state. -/
def Obligations.FrBeginStartsAStream : Prop :=
  (∀ m : BitVec 2, m.toNat ≤ 2 → decode (BitVec.ofNat 32 (0x10 + 4096 * m.toNat)) = .ok (.frBegin m)) ∧
  ∀ (s : State) (m : BitVec 2),
    ((m = FrMode.pack ∨ m = FrMode.unpack) → s.base.toNat + s.len.toNat ≤ s.bufBytes →
      ∃ t, exec (.frBegin m) s = .next t ∧ t.status = 0 ∧ t.pos = s.base ∧
        t.limit.toNat = s.base.toNat + s.len.toNat ∧ t.frmode = m ∧ t.seen = 0 ∧ t.ecnt = 0 ∧
        t.frstate = FrState.devid ∧
        ChangesOnly [.pos, .limit, .frmode, .seen, .ecnt, .frstate, .status] noByte s t) ∧
    ((m = FrMode.pack ∨ m = FrMode.unpack) → s.bufBytes < s.base.toNat + s.len.toNat →
      exec (.frBegin m) s = .next (reported s 0x09)) ∧
    (m = FrMode.length →
      ∃ t, exec (.frBegin m) s = .next t ∧ t.status = 0 ∧ t.pos = s.base ∧ t.limit.toNat = 2 ^ 32 - 1 ∧
        t.frmode = m ∧ t.seen = 0 ∧ t.ecnt = 0 ∧ t.frstate = FrState.devid ∧
        ChangesOnly [.pos, .limit, .frmode, .seen, .ecnt, .frstate, .status] noByte s t)

/-- R155, R157: the bytes of a table header and of the sentinel. -/
def Obligations.HeaderBytesAreTheWireFormat : Prop :=
  (∀ (blk : Byte) (len : BitVec 24), hdrBytes blk len = header8 blk len ++ bigEndian4 (crcOf (header8 blk len))) ∧
  ∀ p : Params, sentinelBytes p = p.sentinelBlkid :: List.replicate 7 0 ++ bigEndian4 p.sentinelCrc

/-- R161: PUT_DEVID completes with the device identifier big-endian at POS (mode PACK only). -/
def Obligations.PutDevidEmitsTheDeviceId : Prop :=
  ∀ s : State, s.Inv → s.canEmit FrState.devid 4 →
    ∃ t, exec .putDevid s = .next t ∧ t.status = 0 ∧ t.pos.toNat = s.pos.toNat + 4 ∧ t.frstate = FrState.hdr ∧
      (s.frmode = FrMode.pack → t.memRead s.pos.toNat 4 = bigEndian4 s.devid) ∧
      ChangesOnly [.pos, .frstate, .status] (s.emitted 4) s t

/-- R162: PUT_HDR completes with the header at POS, the body area zeroed and CRC the header's (mode PACK only). -/
def Obligations.PutHdrEmitsTheHeaderAndZeroesTheBody : Prop :=
  ∀ s : State, s.Inv → s.hlen ≠ 0 → s.canEmit FrState.hdr (12 + s.bodyLen) →
    ∃ t, exec .putHdr s = .next t ∧ t.status = 0 ∧ t.pos.toNat = s.pos.toNat + 12 ∧ t.frstate = FrState.body ∧
      (s.frmode = FrMode.pack →
        t.memRead s.pos.toNat 12 =
          header8 s.blkid s.hlen ++ bigEndian4 (crcOf (header8 s.blkid s.hlen)) ∧
        t.memRead (s.pos.toNat + 12) s.bodyLen = List.replicate s.bodyLen 0 ∧
        t.crc = crcOf (header8 s.blkid s.hlen)) ∧
      (s.frmode ≠ FrMode.pack → t.crc = s.crc) ∧
      ChangesOnly [.pos, .frstate, .status, .crc] (s.emitted (12 + s.bodyLen)) s t

/-- R163: PUT_BODYCRC completes with the CRC of the body big-endian after it (mode PACK only). -/
def Obligations.PutBodycrcEmitsTheTrailingCrc : Prop :=
  ∀ s : State, s.Inv → s.hlen ≠ 0 → s.canEmit FrState.body (s.bodyLen + 4) →
    ∃ t, exec .putBodycrc s = .next t ∧ t.status = 0 ∧ t.pos.toNat = s.pos.toNat + s.bodyLen + 4 ∧
      t.frstate = FrState.hdr ∧
      (s.frmode = FrMode.pack →
        t.memRead (s.pos.toNat + s.bodyLen) 4 = bigEndian4 s.bodyCrc ∧ t.crc = s.bodyCrc) ∧
      (s.frmode ≠ FrMode.pack → t.crc = s.crc) ∧
      ChangesOnly [.pos, .frstate, .status, .crc]
        (fun a => s.frmode = FrMode.pack ∧ inSpan (s.pos.toNat + s.bodyLen) 4 a) s t

/-- R164: PUT_END completes with the sentinel at POS (mode PACK only). -/
def Obligations.PutEndEmitsTheSentinel : Prop :=
  ∀ s : State, s.Inv → s.canEmit FrState.hdr 12 →
    ∃ t, exec .putEnd s = .next t ∧ t.status = 0 ∧ t.pos.toNat = s.pos.toNat + 12 ∧ t.frstate = FrState.done ∧
      (s.frmode = FrMode.pack →
        t.memRead s.pos.toNat 12 =
          s.params.sentinelBlkid :: List.replicate 7 0 ++ bigEndian4 s.params.sentinelCrc) ∧
      ChangesOnly [.pos, .frstate, .status] (s.emitted 12) s t

/-- R159, 60_exceptions.md R230: the errors of the PUT commands in their order; each only reports. -/
def Obligations.PutErrors : Prop :=
  ∀ s : State,
    (∀ row ∈ [(Instr.putDevid, FrState.devid), (.putHdr, FrState.hdr), (.putBodycrc, FrState.body),
        (.putEnd, FrState.hdr)],
      (s.frmode = FrMode.unpack ∨ s.frstate ≠ row.2) → exec row.1 s = .next (reported s 0x0A)) ∧
    (s.frmode ≠ FrMode.unpack → s.hlen = 0 →
      (s.frstate = FrState.hdr → exec .putHdr s = .next (reported s 0x0C)) ∧
      (s.frstate = FrState.body → exec .putBodycrc s = .next (reported s 0x0C))) ∧
    (s.frmode ≠ FrMode.unpack →
      (s.frstate = FrState.devid → s.limit.toNat < s.pos.toNat + 4 → exec .putDevid s = .next (reported s 0x09)) ∧
      (s.frstate = FrState.hdr → s.hlen ≠ 0 → s.limit.toNat < s.pos.toNat + 12 + s.bodyLen →
        exec .putHdr s = .next (reported s 0x09)) ∧
      (s.frstate = FrState.body → s.hlen ≠ 0 → s.limit.toNat < s.pos.toNat + s.bodyLen + 4 →
        exec .putBodycrc s = .next (reported s 0x09)) ∧
      (s.frstate = FrState.hdr → s.limit.toNat < s.pos.toNat + 12 → exec .putEnd s = .next (reported s 0x09)))

/-! ### The framer, parse direction -/

/-- 43_framer_parse.md R188: GET_DEVID on a device identifier of `DEVICE_IDS`. -/
def Obligations.GetDevidReadsTheDeviceId : Prop :=
  ∀ s : State, s.Inv → s.canParse FrState.devid 4 →
    BitVec.ofNat 32 (beNat (s.memRead s.pos.toNat 4)) ∈ s.params.deviceIds →
    ∃ t, exec .getDevid s = .next t ∧ t.status = 0 ∧ t.pos.toNat = s.pos.toNat + 4 ∧ t.frstate = FrState.hdr ∧
      t.devid.toNat = beNat (s.memRead s.pos.toNat 4) ∧
      ChangesOnly [.devid, .pos, .frstate, .status] noByte s t

/-- R190, R194: GET_HDR on a table header that it accepts. -/
def Obligations.GetHdrAcceptsATableHeader : Prop :=
  ∀ s : State, s.Inv → s.canParse FrState.hdr 12 → s.hdrLen ≠ 0 → s.hdrOwnCrc = s.hdrRdcrc →
    s.pos.toNat + 12 + s.hdrLen * 4 ≤ s.limit.toNat → entrySize s.params s.devid s.hdrBlk ≠ none →
    s.seen.getLsbD s.hdrBlk.toNat = false →
    ∃ t, exec .getHdr s = .next t ∧ t.status = 0 ∧ t.pos.toNat = s.pos.toNat + 12 ∧ t.frstate = FrState.body ∧
      t.blkid = s.hdrBlk ∧ t.hlen.toNat = s.hdrLen ∧ t.rdcrc = s.hdrRdcrc ∧ t.crc = s.hdrOwnCrc ∧
      (∀ b : Byte, t.seen.getLsbD b.toNat = (s.seen.getLsbD b.toNat || b == s.hdrBlk)) ∧
      ChangesOnly [.blkid, .hlen, .rdcrc, .crc, .seen, .pos, .frstate, .status] noByte s t

/-- R190 test 2: GET_HDR on a sentinel that ends the stream; its CRC field is not compared and CRC is not written. -/
def Obligations.GetHdrAcceptsTheSentinel : Prop :=
  ∀ s : State, s.Inv → s.canParse FrState.hdr 12 → s.hdrLen = 0 → s.pos.toNat + 12 = s.limit.toNat →
    ∃ t, exec .getHdr s = .next t ∧ t.status = 0 ∧ t.pos = s.limit ∧ t.frstate = FrState.done ∧
      t.blkid = s.hdrBlk ∧ t.hlen = 0 ∧ t.rdcrc = s.hdrRdcrc ∧
      ChangesOnly [.blkid, .hlen, .rdcrc, .pos, .frstate, .status] noByte s t

/-- R188, R190, 60_exceptions.md R227, R230: the errors of GET_DEVID and GET_HDR in their order, and the registers each
has written by then. -/
def Obligations.GetDevidAndGetHdrErrors : Prop :=
  ∀ s : State, s.Inv →
    ((s.frmode ≠ FrMode.unpack ∨ s.frstate ≠ FrState.devid) → exec .getDevid s = .next (reported s 0x0A)) ∧
    (s.canParse FrState.devid 0 → s.limit.toNat < s.pos.toNat + 4 →
      exec .getDevid s = .next (failedWith s 0x10)) ∧
    (s.canParse FrState.devid 4 → BitVec.ofNat 32 (beNat (s.memRead s.pos.toNat 4)) ∉ s.params.deviceIds →
      exec .getDevid s =
        .next (failedWith { s with devid := BitVec.ofNat 32 (beNat (s.memRead s.pos.toNat 4)) } 0x11)) ∧
    ((s.frmode ≠ FrMode.unpack ∨ s.frstate ≠ FrState.hdr) → exec .getHdr s = .next (reported s 0x0A)) ∧
    (s.canParse FrState.hdr 0 → s.limit.toNat < s.pos.toNat + 12 → exec .getHdr s = .next (failedWith s 0x10)) ∧
    (s.canParse FrState.hdr 12 → s.hdrLen = 0 → s.pos.toNat + 12 ≠ s.limit.toNat →
      exec .getHdr s = .next (failedWith s.withHdr 0x17)) ∧
    (s.canParse FrState.hdr 12 → s.hdrLen ≠ 0 → s.hdrOwnCrc ≠ s.hdrRdcrc →
      exec .getHdr s = .next (failedWith { s.withHdr with crc := s.hdrOwnCrc } 0x12)) ∧
    (s.canParse FrState.hdr 12 → s.hdrLen ≠ 0 → s.hdrOwnCrc = s.hdrRdcrc →
      s.limit.toNat < s.pos.toNat + 12 + s.hdrLen * 4 →
      exec .getHdr s = .next (failedWith { s.withHdr with crc := s.hdrOwnCrc } 0x10)) ∧
    (s.canParse FrState.hdr (12 + s.hdrLen * 4) → s.hdrLen ≠ 0 → s.hdrOwnCrc = s.hdrRdcrc →
      entrySize s.params s.devid s.hdrBlk = none →
      exec .getHdr s = .next (failedWith { s.withHdr with crc := s.hdrOwnCrc } 0x13)) ∧
    (s.canParse FrState.hdr (12 + s.hdrLen * 4) → s.hdrLen ≠ 0 → s.hdrOwnCrc = s.hdrRdcrc →
      entrySize s.params s.devid s.hdrBlk ≠ none → s.seen.getLsbD s.hdrBlk.toNat = true →
      exec .getHdr s = .next (failedWith { s.withHdr with crc := s.hdrOwnCrc } 0x14))

/-- R192: GET_BODY on a body that it accepts. An entry count that fits ECNT is what ECNT gets; of one that does not, the
rule gives no result (log entry 3) and this says none. -/
def Obligations.GetBodyAcceptsABody : Prop :=
  ∀ (s : State) (es : Nat), s.Inv → s.canParse FrState.body (s.bodyLen + 4) →
    entrySize s.params s.devid s.blkid = some es → s.bodyLen % es = 0 → s.bodyCrc = s.trailingCrc →
    ∃ t, exec .getBody s = .next t ∧ t.status = 0 ∧ t.pos.toNat = s.pos.toNat + s.bodyLen + 4 ∧
      t.frstate = FrState.hdr ∧ t.crc = s.bodyCrc ∧ t.rdcrc = s.trailingCrc ∧
      (s.bodyLen / es < 2 ^ 24 → t.ecnt.toNat = s.bodyLen / es) ∧
      ChangesOnly [.crc, .rdcrc, .ecnt, .pos, .frstate, .status] noByte s t

/-- R192, 60_exceptions.md R227, R230: the errors of GET_BODY in their order, and the registers each has written. -/
def Obligations.GetBodyErrors : Prop :=
  ∀ s : State, s.Inv →
    ((s.frmode ≠ FrMode.unpack ∨ s.frstate ≠ FrState.body) → exec .getBody s = .next (reported s 0x0A)) ∧
    (s.canParse FrState.body 0 →
      (entrySize s.params s.devid s.blkid = none ∨
        ∃ es, entrySize s.params s.devid s.blkid = some es ∧ s.bodyLen % es ≠ 0) →
      exec .getBody s = .next (failedWith s 0x15)) ∧
    ∀ es, entrySize s.params s.devid s.blkid = some es → s.bodyLen % es = 0 →
      (s.canParse FrState.body 0 → s.limit.toNat < s.pos.toNat + s.bodyLen + 4 →
        exec .getBody s = .next (failedWith s 0x10)) ∧
      (s.canParse FrState.body (s.bodyLen + 4) → s.bodyCrc ≠ s.trailingCrc →
        exec .getBody s = .next (failedWith { s with crc := s.bodyCrc, rdcrc := s.trailingCrc } 0x16))

/-! ### Streams -/

/-- 42_framer_emit.md R170, R172: the length of the emitted stream is `GetLength`. -/
def Obligations.FrameHasTheComputedLength : Prop :=
  ∀ (p : Params) (devid : Word) (blocks : List Block), (frame p devid blocks).length = getLength blocks

/-- 43_framer_parse.md R202: parsing an emitted stream gives back the device identifier and the tables. -/
def Obligations.DeframeOfFrameIsTheStream : Prop :=
  ∀ (p : Params) (devid : Word) (blocks : List Block),
    devid ∈ p.deviceIds → blocksParsable p devid blocks →
    deframe p (frame p devid blocks) = .ok (devid, blocks)

/-- 42_framer_emit.md R165, first half: with room for the stream, every command of the canonical emit sequence ends OK, and
afterwards the bytes from BASE to POS are `Frame(devid, blocks)`, FRSTATE is S_DONE and no byte outside them has changed.
The list of pending operations is the model's: log entry 4. -/
def Obligations.EmitSequenceWritesTheFrame : Prop :=
  ∀ (s : State) (b cap : Nat) (devid : Word) (blocks : List Block),
    s.Inv → s.pending = emitSequence b cap devid blocks → blocksFramable blocks → getLength blocks ≤ cap →
    b + cap ≤ s.bufBytes →
    (∀ k, 3 ≤ k → k ≤ s.pending.length → ∃ u, Sys2Proof.core.run k s = .next u ∧ u.status = 0) ∧
    ∃ t, Sys2Proof.core.run s.pending.length s = .next t ∧ t.pending = [] ∧
      t.memRead b (getLength blocks) = frame s.params devid blocks ∧ t.pos.toNat = b + getLength blocks ∧
      t.frstate = FrState.done ∧ t.status = 0 ∧ t.esticky = s.esticky ∧
      ∀ a, ¬ inSpan b (getLength blocks) a → t.bufByte a = s.bufByte a

/-- 42_framer_emit.md R171: the length sequence, whatever `cap` it writes to LEN, ends with `POS - BASE = GetLength(blocks)`,
having written no BUF byte and not CRC. The list of pending operations is the model's: log entry 4. -/
def Obligations.LengthSequenceComputesTheLength : Prop :=
  ∀ (s : State) (b cap : Nat) (devid : Word) (blocks : List Block),
    s.Inv → s.pending = lengthSequence b cap devid blocks → blocksFramable blocks →
    b + getLength blocks ≤ 2 ^ 32 - 1 →
    ∃ t, Sys2Proof.core.run s.pending.length s = .next t ∧ t.pending = [] ∧ t.status = 0 ∧ t.esticky = s.esticky ∧
      t.frstate = FrState.done ∧ t.pos.toNat = t.base.toNat + getLength blocks ∧ t.base.toNat = b ∧
      t.crc = s.crc ∧ ∀ a, t.bufByte a = s.bufByte a

/-- 43_framer_parse.md R195, R196: the canonical parse sequence ends as `Deframe` of the stream in `[BASE, BASE + LEN)`
says, with the tables it collected, or with the kind in STATUS and `POS - BASE` the offset. -/
def Obligations.ParseSequenceIsDeframe : Prop :=
  ∀ s : State, s.base.toNat + s.len.toNat ≤ s.bufBytes →
    (∀ d blocks, deframe s.params (s.memRead s.base.toNat s.len.toNat) = .ok (d, blocks) →
      ∃ t, parseSequence s = some (t, blocks) ∧ t.status = 0 ∧ t.frstate = FrState.done ∧ t.devid = d ∧
        t.pos = t.limit) ∧
    ∀ k off, deframe s.params (s.memRead s.base.toNat s.len.toNat) = .error (k, off) →
      ∃ t got, parseSequence s = some (t, got) ∧ t.status = statusOf k ∧ t.frstate = FrState.failed ∧
        t.pos.toNat = s.base.toNat + off

/-- R203, rows 1 to 5: one inverted bit in a table of an emitted stream makes the parse fail, with the kind and the offset
of the row. -/
def Obligations.FlippedTableBitFailsTheParse : Prop :=
  ∀ (p : Params) (devid : Word) (pre post : List Block) (blk : Byte) (body : List Byte) (i b : Nat),
    devid ∈ p.deviceIds → blocksParsable p devid (pre ++ (blk, body) :: post) → b < 8 →
    let s := frame p devid (pre ++ (blk, body) :: post)
    let off := tableOffset pre
    (i < body.length + 4 → deframe p (flipBit s (off + 12 + i) b) = .error (.dataCrcInvalid, off + 12)) ∧
    (i < 12 → lenFieldAt (flipBit s (off + i) b) off ≠ 0 →
      deframe p (flipBit s (off + i) b) = .error (.invalidTableHeaderCrc, off)) ∧
    (i < 12 → lenFieldAt (flipBit s (off + i) b) off = 0 →
      deframe p (flipBit s (off + i) b) = .error (.extraBytesAtEndOfBuffer, off))
end

