-- ==== Sys2Proof/Laws/Fields.lean ====
section
/-! SUPPORT. What the packing primitive does, one box at a time: the checks, the boxes a field visits, and the bits of one
packed or unpacked byte. -/

namespace Sys2Proof.Machine

/-- `Check` passes exactly when none of its five conditions holds (40_packing.md R120). -/
theorem check_eq_none_iff (op : Direction) (v start endBit n : Nat) (q : Quirks) :
    check op v start endBit n q = none ↔
      endBit ≤ start ∧ start - endBit + 1 ≤ 64 ∧
      (op = .pack → start - endBit + 1 < 64 → v < 2 ^ (start - endBit + 1)) ∧
      ((q.le ∨ q.lsw) → n % 4 = 0) ∧ start < 8 * n := by
  simp only [check]
  split_ifs with h1 h2 h3 h4 h5
  · simp; omega
  · simp; omega
  · simp only [false_iff]
    rintro ⟨-, -, h, -⟩
    exact absurd (h h3.1 h3.2.1) (by omega)
  · simp only [false_iff]
    rintro ⟨-, -, -, h, -⟩
    exact h4.2 (h h4.1)
  · simp; omega
  · simp only [true_iff]
    refine ⟨by omega, by omega, fun ho hw => ?_, fun hq => ?_, by omega⟩
    · by_contra hv; exact h3 ⟨ho, hw, by omega⟩
    · by_contra hn; exact h4 ⟨hq, hn⟩

/-- The boxes a field visits are those from the one of END to the one of START (R112). -/
theorem mem_boxes (start endBit b : Nat) (h : endBit ≤ start) :
    b ∈ boxes start endBit ↔ endBit / 8 ≤ b ∧ b ≤ start / 8 := by
  have : endBit / 8 ≤ start / 8 := Nat.div_le_div_right h
  simp only [boxes, List.mem_map, List.mem_range]
  constructor
  · rintro ⟨i, hi, rfl⟩; omega
  · intro hb; exact ⟨start / 8 - b, by omega, by omega⟩

/-- A field visits each of its boxes once (R112). -/
theorem boxes_nodup (start endBit : Nat) (h : endBit ≤ start) : (boxes start endBit).Nodup := by
  have : endBit / 8 ≤ start / 8 := Nat.div_le_div_right h
  refine List.Nodup.map_on (fun i hi j hj hij => ?_) List.nodup_range
  simp at hi hj
  omega

theorem boxTop_lt (start box : Nat) : boxTop start box < 8 := by
  unfold boxTop; split <;> omega

theorem boxBottom_lt (endBit box : Nat) : boxBottom endBit box < 8 := by
  unfold boxBottom; split <;> omega

theorem boxBottom_le_boxTop (start endBit box : Nat) (h : endBit ≤ start) :
    boxBottom endBit box ≤ boxTop start box := by
  unfold boxBottom boxTop
  split_ifs <;> omega

/-- Box bit `p` of a visited box is a bit of the field exactly from the box's bottom to its top (R112). -/
theorem box_bit_in_field (start endBit box p : Nat) (hp : p < 8) (hb : endBit / 8 ≤ box ∧ box ≤ start / 8) :
    (boxBottom endBit box ≤ p ∧ p ≤ boxTop start box) ↔ (endBit ≤ box * 8 + p ∧ box * 8 + p ≤ start) := by
  unfold boxBottom boxTop
  split_ifs <;> omega

theorem physBit_lt (p : Nat) (q : Quirks) (h : p < 8) : physBit p q < 8 := by
  unfold physBit; split <;> omega

/-- Reflecting a box bit twice gives it back (20_memory.md R65). -/
theorem physBit_physBit (p : Nat) (q : Quirks) (h : p < 8) : physBit (physBit p q) q = p := by
  unfold physBit; split <;> omega

/-- Physical bit `physBit p` of a reflected byte is box bit `p` (R65, 40_packing.md R115). -/
theorem reflect_getLsbD (q : Quirks) (b : Byte) (p : Nat) (h : p < 8) :
    (reflect q b).getLsbD p = b.getLsbD (physBit p q) := by
  unfold reflect physBit
  split
  · simp only [rev8, BitVec.getLsbD_reverse, BitVec.getMsbD, h]
    simp
  · rfl

/-- The bits of `mask(hi, lo)` (00_scope.md R8). -/
theorem maskByte_getLsbD (hi lo p : Nat) (hp : p < 8) (h : lo ≤ hi) :
    (maskByte hi lo).getLsbD p = decide (lo ≤ p ∧ p ≤ hi) := by
  have e : 2 ^ (hi + 1) - 2 ^ lo = 2 ^ lo * (2 ^ (hi + 1 - lo) - 1) := by
    rw [Nat.mul_sub, ← Nat.pow_add, Nat.mul_one, show lo + (hi + 1 - lo) = hi + 1 by omega]
  simp only [maskByte, BitVec.getLsbD_ofNat, hp, decide_true, Bool.true_and, e, Nat.testBit_two_pow_mul,
    Nat.testBit_two_pow_sub_one]
  by_cases h1 : lo ≤ p <;> simp [h1]
  omega

/-- The bits of `v[hi:lo]` (R8). -/
theorem bitsOf_testBit (v hi lo i : Nat) : (bitsOf v hi lo).testBit i = (decide (i ≤ hi - lo) && v.testBit (lo + i)) := by
  rw [bitsOf, Nat.testBit_mod_two_pow, Nat.testBit_div_two_pow, Nat.add_comm i lo]
  by_cases h : i ≤ hi - lo <;> simp [h]

/-- Packing one box (R116): inside the box's sub-range the value's bits, outside it the old ones. -/
theorem packByte_getLsbD (q : Quirks) (v start endBit box p : Nat) (old : Byte) (h : endBit ≤ start) (hp : p < 8)
    (hb : endBit / 8 ≤ box ∧ box ≤ start / 8) :
    (packByte q v start endBit box old).getLsbD (physBit p q) =
      if endBit ≤ box * 8 + p ∧ box * 8 + p ≤ start then v.testBit (box * 8 + p - endBit)
      else old.getLsbD (physBit p q) := by
  have hbt := boxBottom_le_boxTop start endBit box h
  have hpb := physBit_lt p q hp
  have hin := box_bit_in_field start endBit box p hp hb
  have hlow : boxBottom endBit box ≤ p → valueBottom endBit box + (p - boxBottom endBit box) = box * 8 + p - endBit := by
    have : endBit ≤ box * 8 + boxBottom endBit box := by unfold boxBottom; split <;> omega
    unfold valueBottom; omega
  have hwid : valueTop start endBit box - valueBottom endBit box = boxTop start box - boxBottom endBit box := by
    have : endBit ≤ box * 8 + boxBottom endBit box := by unfold boxBottom; split <;> omega
    unfold valueTop valueBottom; omega
  unfold packByte
  simp only [BitVec.getLsbD_or, BitVec.getLsbD_and, BitVec.getLsbD_not, hpb, decide_true, Bool.true_and,
    reflect_getLsbD q _ _ hpb, physBit_physBit p q hp, maskByte_getLsbD _ _ _ hp hbt, BitVec.getLsbD_ofNat, hp,
    Nat.testBit_mul_two_pow, bitsOf_testBit, hwid]
  by_cases hr : boxBottom endBit box ≤ p ∧ p ≤ boxTop start box
  · rw [if_pos (hin.1 hr)]
    simp only [hr, hlow hr.1]
    simp; omega
  · rw [if_neg (fun hf => hr (hin.2 hf))]
    simp only [hr]
    by_cases h1 : boxBottom endBit box ≤ p
    · have : ¬ p - boxBottom endBit box ≤ boxTop start box - boxBottom endBit box := by omega
      simp [this]
    · simp [h1]

/-- Unpacking one box (R117): its contribution holds the byte's bits of the sub-range at the value's places. -/
theorem unpackByte_testBit (q : Quirks) (start endBit box k : Nat) (byte : Byte) (h : endBit ≤ start)
    (hb : endBit / 8 ≤ box ∧ box ≤ start / 8) :
    (unpackByte q start endBit box byte).testBit k =
      (decide ((endBit + k) / 8 = box ∧ endBit + k ≤ start) && byte.getLsbD (physBit ((endBit + k) % 8) q)) := by
  have hbt := boxBottom_le_boxTop start endBit box h
  have htop := boxTop_lt start box
  have hle : endBit ≤ box * 8 + boxBottom endBit box := by unfold boxBottom; split <;> omega
  unfold unpackByte
  rw [Nat.testBit_mul_two_pow, bitsOf_testBit]
  by_cases hk : valueBottom endBit box ≤ k
  · have hv : valueBottom endBit box = box * 8 + boxBottom endBit box - endBit := rfl
    by_cases ht : k - valueBottom endBit box ≤ boxTop start box - boxBottom endBit box
    · have hp : boxBottom endBit box + (k - valueBottom endBit box) < 8 := by omega
      have hpe : boxBottom endBit box + (k - valueBottom endBit box) = (endBit + k) % 8 := by omega
      have hbox : (endBit + k) / 8 = box := by omega
      have hin := (box_bit_in_field start endBit box ((endBit + k) % 8) (by omega) hb).1 (by omega)
      rw [← BitVec.getLsbD, hpe, reflect_getLsbD _ _ _ (by omega)]
      simp [hk, ht, hbox]; omega
    · have : ¬ ((endBit + k) / 8 = box ∧ endBit + k ≤ start) := by
        rintro ⟨h1, h2⟩
        have := (box_bit_in_field start endBit box ((endBit + k) % 8) (by omega) hb).2 (by omega)
        omega
      simp [ht, this]
  · have : ¬ ((endBit + k) / 8 = box ∧ endBit + k ≤ start) := by
      rintro ⟨h1, h2⟩
      have hv : valueBottom endBit box = box * 8 + boxBottom endBit box - endBit := rfl
      have := (box_bit_in_field start endBit box ((endBit + k) % 8) (by omega) hb).2 (by omega)
      omega
    simp [hk, this]

/-- `Pack` keeps the length (R118). -/
@[simp] theorem pack_length (s : List Byte) (v start endBit : Nat) (q : Quirks) :
    (pack s v start endBit q).length = s.length := by
  unfold pack
  generalize boxes start endBit = bs
  suffices ∀ t : List Byte, (bs.foldl (fun t box => t.set (physAddr box s.length q)
      (packByte q v start endBit box (t.getD (physAddr box s.length q) 0))) t).length = t.length from this s
  intro t
  induction bs generalizing t with
  | nil => rfl
  | cons b rest ih => exact (ih _).trans (List.length_set ..)

end Sys2Proof.Machine
end

