-- ==== Sys2Proof/Laws/State.lean ====
section
/-! SUPPORT. What each update of the state leaves in each field, one lemma per field per update. They are proved by `(rfl)` in
parentheses, so that `simp` rewrites with them. Where an update holds a CRC or a header, prove a field's value by `simp`
and not by `rfl`: comparing two whole states makes Lean compute what was written. -/

namespace Sys2Proof.Machine

/-! ### `State.ok` -/

@[simp] theorem State.ok_value (s : State) : (s.ok).value = s.value := (rfl)
@[simp] theorem State.ok_start (s : State) : (s.ok).start = s.start := (rfl)
@[simp] theorem State.ok_endBit (s : State) : (s.ok).endBit = s.endBit := (rfl)
@[simp] theorem State.ok_base (s : State) : (s.ok).base = s.base := (rfl)
@[simp] theorem State.ok_len (s : State) : (s.ok).len = s.len := (rfl)
@[simp] theorem State.ok_pos (s : State) : (s.ok).pos = s.pos := (rfl)
@[simp] theorem State.ok_limit (s : State) : (s.ok).limit = s.limit := (rfl)
@[simp] theorem State.ok_devid (s : State) : (s.ok).devid = s.devid := (rfl)
@[simp] theorem State.ok_blkid (s : State) : (s.ok).blkid = s.blkid := (rfl)
@[simp] theorem State.ok_hlen (s : State) : (s.ok).hlen = s.hlen := (rfl)
@[simp] theorem State.ok_rdcrc (s : State) : (s.ok).rdcrc = s.rdcrc := (rfl)
@[simp] theorem State.ok_crc (s : State) : (s.ok).crc = s.crc := (rfl)
@[simp] theorem State.ok_ecnt (s : State) : (s.ok).ecnt = s.ecnt := (rfl)
@[simp] theorem State.ok_status (s : State) : (s.ok).status = statusOk := (rfl)
@[simp] theorem State.ok_esticky (s : State) : (s.ok).esticky = s.esticky := (rfl)
@[simp] theorem State.ok_frstate (s : State) : (s.ok).frstate = s.frstate := (rfl)
@[simp] theorem State.ok_frmode (s : State) : (s.ok).frmode = s.frmode := (rfl)
@[simp] theorem State.ok_seen (s : State) : (s.ok).seen = s.seen := (rfl)
@[simp] theorem State.ok_buf (s : State) : (s.ok).buf = s.buf := (rfl)
@[simp] theorem State.ok_params (s : State) : (s.ok).params = s.params := (rfl)
@[simp] theorem State.ok_resets (s : State) : (s.ok).resets = s.resets := (rfl)
@[simp] theorem State.ok_pending (s : State) : (s.ok).pending = s.pending := (rfl)
@[simp] theorem State.ok_reply (s : State) : (s.ok).reply = s.reply := (rfl)
@[simp] theorem State.ok_bufBytes (s : State) : (s.ok).bufBytes = s.bufBytes := (rfl)
@[simp] theorem State.ok_unlisted (s : State) : (s.ok).unlisted = s.unlisted := (rfl)
@[simp] theorem State.ok_bufByte (s : State) : (s.ok).bufByte = s.bufByte := (rfl)
@[simp] theorem State.ok_memRead (s : State) : (s.ok).memRead = s.memRead := (rfl)

/-! ### `State.raise` -/

@[simp] theorem State.raise_value (s : State) (k : ErrorKind) : (s.raise k).value = s.value := (rfl)
@[simp] theorem State.raise_start (s : State) (k : ErrorKind) : (s.raise k).start = s.start := (rfl)
@[simp] theorem State.raise_endBit (s : State) (k : ErrorKind) : (s.raise k).endBit = s.endBit := (rfl)
@[simp] theorem State.raise_base (s : State) (k : ErrorKind) : (s.raise k).base = s.base := (rfl)
@[simp] theorem State.raise_len (s : State) (k : ErrorKind) : (s.raise k).len = s.len := (rfl)
@[simp] theorem State.raise_pos (s : State) (k : ErrorKind) : (s.raise k).pos = s.pos := (rfl)
@[simp] theorem State.raise_limit (s : State) (k : ErrorKind) : (s.raise k).limit = s.limit := (rfl)
@[simp] theorem State.raise_devid (s : State) (k : ErrorKind) : (s.raise k).devid = s.devid := (rfl)
@[simp] theorem State.raise_blkid (s : State) (k : ErrorKind) : (s.raise k).blkid = s.blkid := (rfl)
@[simp] theorem State.raise_hlen (s : State) (k : ErrorKind) : (s.raise k).hlen = s.hlen := (rfl)
@[simp] theorem State.raise_rdcrc (s : State) (k : ErrorKind) : (s.raise k).rdcrc = s.rdcrc := (rfl)
@[simp] theorem State.raise_crc (s : State) (k : ErrorKind) : (s.raise k).crc = s.crc := (rfl)
@[simp] theorem State.raise_ecnt (s : State) (k : ErrorKind) : (s.raise k).ecnt = s.ecnt := (rfl)
@[simp] theorem State.raise_status (s : State) (k : ErrorKind) : (s.raise k).status = statusOf k := (rfl)
@[simp] theorem State.raise_esticky (s : State) (k : ErrorKind) : (s.raise k).esticky = stickySet s.esticky k := (rfl)
@[simp] theorem State.raise_frstate (s : State) (k : ErrorKind) : (s.raise k).frstate = s.frstate := (rfl)
@[simp] theorem State.raise_frmode (s : State) (k : ErrorKind) : (s.raise k).frmode = s.frmode := (rfl)
@[simp] theorem State.raise_seen (s : State) (k : ErrorKind) : (s.raise k).seen = s.seen := (rfl)
@[simp] theorem State.raise_buf (s : State) (k : ErrorKind) : (s.raise k).buf = s.buf := (rfl)
@[simp] theorem State.raise_params (s : State) (k : ErrorKind) : (s.raise k).params = s.params := (rfl)
@[simp] theorem State.raise_resets (s : State) (k : ErrorKind) : (s.raise k).resets = s.resets := (rfl)
@[simp] theorem State.raise_pending (s : State) (k : ErrorKind) : (s.raise k).pending = s.pending := (rfl)
@[simp] theorem State.raise_reply (s : State) (k : ErrorKind) : (s.raise k).reply = s.reply := (rfl)
@[simp] theorem State.raise_bufBytes (s : State) (k : ErrorKind) : (s.raise k).bufBytes = s.bufBytes := (rfl)
@[simp] theorem State.raise_unlisted (s : State) (k : ErrorKind) : (s.raise k).unlisted = s.unlisted := (rfl)
@[simp] theorem State.raise_bufByte (s : State) (k : ErrorKind) : (s.raise k).bufByte = s.bufByte := (rfl)
@[simp] theorem State.raise_memRead (s : State) (k : ErrorKind) : (s.raise k).memRead = s.memRead := (rfl)

/-! ### `State.fail` -/

@[simp] theorem State.fail_value (s : State) (k : ErrorKind) : (s.fail k).value = s.value := (rfl)
@[simp] theorem State.fail_start (s : State) (k : ErrorKind) : (s.fail k).start = s.start := (rfl)
@[simp] theorem State.fail_endBit (s : State) (k : ErrorKind) : (s.fail k).endBit = s.endBit := (rfl)
@[simp] theorem State.fail_base (s : State) (k : ErrorKind) : (s.fail k).base = s.base := (rfl)
@[simp] theorem State.fail_len (s : State) (k : ErrorKind) : (s.fail k).len = s.len := (rfl)
@[simp] theorem State.fail_pos (s : State) (k : ErrorKind) : (s.fail k).pos = s.pos := (rfl)
@[simp] theorem State.fail_limit (s : State) (k : ErrorKind) : (s.fail k).limit = s.limit := (rfl)
@[simp] theorem State.fail_devid (s : State) (k : ErrorKind) : (s.fail k).devid = s.devid := (rfl)
@[simp] theorem State.fail_blkid (s : State) (k : ErrorKind) : (s.fail k).blkid = s.blkid := (rfl)
@[simp] theorem State.fail_hlen (s : State) (k : ErrorKind) : (s.fail k).hlen = s.hlen := (rfl)
@[simp] theorem State.fail_rdcrc (s : State) (k : ErrorKind) : (s.fail k).rdcrc = s.rdcrc := (rfl)
@[simp] theorem State.fail_crc (s : State) (k : ErrorKind) : (s.fail k).crc = s.crc := (rfl)
@[simp] theorem State.fail_ecnt (s : State) (k : ErrorKind) : (s.fail k).ecnt = s.ecnt := (rfl)
@[simp] theorem State.fail_status (s : State) (k : ErrorKind) : (s.fail k).status = statusOf k := (rfl)
@[simp] theorem State.fail_esticky (s : State) (k : ErrorKind) : (s.fail k).esticky = stickySet s.esticky k := (rfl)
@[simp] theorem State.fail_frstate (s : State) (k : ErrorKind) : (s.fail k).frstate = FrState.failed := (rfl)
@[simp] theorem State.fail_frmode (s : State) (k : ErrorKind) : (s.fail k).frmode = s.frmode := (rfl)
@[simp] theorem State.fail_seen (s : State) (k : ErrorKind) : (s.fail k).seen = s.seen := (rfl)
@[simp] theorem State.fail_buf (s : State) (k : ErrorKind) : (s.fail k).buf = s.buf := (rfl)
@[simp] theorem State.fail_params (s : State) (k : ErrorKind) : (s.fail k).params = s.params := (rfl)
@[simp] theorem State.fail_resets (s : State) (k : ErrorKind) : (s.fail k).resets = s.resets := (rfl)
@[simp] theorem State.fail_pending (s : State) (k : ErrorKind) : (s.fail k).pending = s.pending := (rfl)
@[simp] theorem State.fail_reply (s : State) (k : ErrorKind) : (s.fail k).reply = s.reply := (rfl)
@[simp] theorem State.fail_bufBytes (s : State) (k : ErrorKind) : (s.fail k).bufBytes = s.bufBytes := (rfl)
@[simp] theorem State.fail_unlisted (s : State) (k : ErrorKind) : (s.fail k).unlisted = s.unlisted := (rfl)
@[simp] theorem State.fail_bufByte (s : State) (k : ErrorKind) : (s.fail k).bufByte = s.bufByte := (rfl)
@[simp] theorem State.fail_memRead (s : State) (k : ErrorKind) : (s.fail k).memRead = s.memRead := (rfl)

/-! ### `State.advance` -/

@[simp] theorem State.advance_value (s : State) (p : Nat) (st : BitVec 3) : (s.advance p st).value = s.value := (rfl)
@[simp] theorem State.advance_start (s : State) (p : Nat) (st : BitVec 3) : (s.advance p st).start = s.start := (rfl)
@[simp] theorem State.advance_endBit (s : State) (p : Nat) (st : BitVec 3) : (s.advance p st).endBit = s.endBit := (rfl)
@[simp] theorem State.advance_base (s : State) (p : Nat) (st : BitVec 3) : (s.advance p st).base = s.base := (rfl)
@[simp] theorem State.advance_len (s : State) (p : Nat) (st : BitVec 3) : (s.advance p st).len = s.len := (rfl)
@[simp] theorem State.advance_pos (s : State) (p : Nat) (st : BitVec 3) :
    (s.advance p st).pos = BitVec.ofNat 32 p := (rfl)
@[simp] theorem State.advance_limit (s : State) (p : Nat) (st : BitVec 3) : (s.advance p st).limit = s.limit := (rfl)
@[simp] theorem State.advance_devid (s : State) (p : Nat) (st : BitVec 3) : (s.advance p st).devid = s.devid := (rfl)
@[simp] theorem State.advance_blkid (s : State) (p : Nat) (st : BitVec 3) : (s.advance p st).blkid = s.blkid := (rfl)
@[simp] theorem State.advance_hlen (s : State) (p : Nat) (st : BitVec 3) : (s.advance p st).hlen = s.hlen := (rfl)
@[simp] theorem State.advance_rdcrc (s : State) (p : Nat) (st : BitVec 3) : (s.advance p st).rdcrc = s.rdcrc := (rfl)
@[simp] theorem State.advance_crc (s : State) (p : Nat) (st : BitVec 3) : (s.advance p st).crc = s.crc := (rfl)
@[simp] theorem State.advance_ecnt (s : State) (p : Nat) (st : BitVec 3) : (s.advance p st).ecnt = s.ecnt := (rfl)
@[simp] theorem State.advance_status (s : State) (p : Nat) (st : BitVec 3) : (s.advance p st).status = s.status := (rfl)
@[simp] theorem State.advance_esticky (s : State) (p : Nat) (st : BitVec 3) :
    (s.advance p st).esticky = s.esticky := (rfl)
@[simp] theorem State.advance_frstate (s : State) (p : Nat) (st : BitVec 3) : (s.advance p st).frstate = st := (rfl)
@[simp] theorem State.advance_frmode (s : State) (p : Nat) (st : BitVec 3) : (s.advance p st).frmode = s.frmode := (rfl)
@[simp] theorem State.advance_seen (s : State) (p : Nat) (st : BitVec 3) : (s.advance p st).seen = s.seen := (rfl)
@[simp] theorem State.advance_buf (s : State) (p : Nat) (st : BitVec 3) : (s.advance p st).buf = s.buf := (rfl)
@[simp] theorem State.advance_params (s : State) (p : Nat) (st : BitVec 3) : (s.advance p st).params = s.params := (rfl)
@[simp] theorem State.advance_resets (s : State) (p : Nat) (st : BitVec 3) : (s.advance p st).resets = s.resets := (rfl)
@[simp] theorem State.advance_pending (s : State) (p : Nat) (st : BitVec 3) :
    (s.advance p st).pending = s.pending := (rfl)
@[simp] theorem State.advance_reply (s : State) (p : Nat) (st : BitVec 3) : (s.advance p st).reply = s.reply := (rfl)
@[simp] theorem State.advance_bufBytes (s : State) (p : Nat) (st : BitVec 3) : (s.advance p st).bufBytes = s.bufBytes := (rfl)
@[simp] theorem State.advance_unlisted (s : State) (p : Nat) (st : BitVec 3) : (s.advance p st).unlisted = s.unlisted := (rfl)
@[simp] theorem State.advance_bufByte (s : State) (p : Nat) (st : BitVec 3) : (s.advance p st).bufByte = s.bufByte := (rfl)
@[simp] theorem State.advance_memRead (s : State) (p : Nat) (st : BitVec 3) : (s.advance p st).memRead = s.memRead := (rfl)

/-! ### `State.putByte` -/

@[simp] theorem State.putByte_value (s : State) (a : Nat) (b : Byte) : (s.putByte a b).value = s.value := (rfl)
@[simp] theorem State.putByte_start (s : State) (a : Nat) (b : Byte) : (s.putByte a b).start = s.start := (rfl)
@[simp] theorem State.putByte_endBit (s : State) (a : Nat) (b : Byte) : (s.putByte a b).endBit = s.endBit := (rfl)
@[simp] theorem State.putByte_base (s : State) (a : Nat) (b : Byte) : (s.putByte a b).base = s.base := (rfl)
@[simp] theorem State.putByte_len (s : State) (a : Nat) (b : Byte) : (s.putByte a b).len = s.len := (rfl)
@[simp] theorem State.putByte_pos (s : State) (a : Nat) (b : Byte) : (s.putByte a b).pos = s.pos := (rfl)
@[simp] theorem State.putByte_limit (s : State) (a : Nat) (b : Byte) : (s.putByte a b).limit = s.limit := (rfl)
@[simp] theorem State.putByte_devid (s : State) (a : Nat) (b : Byte) : (s.putByte a b).devid = s.devid := (rfl)
@[simp] theorem State.putByte_blkid (s : State) (a : Nat) (b : Byte) : (s.putByte a b).blkid = s.blkid := (rfl)
@[simp] theorem State.putByte_hlen (s : State) (a : Nat) (b : Byte) : (s.putByte a b).hlen = s.hlen := (rfl)
@[simp] theorem State.putByte_rdcrc (s : State) (a : Nat) (b : Byte) : (s.putByte a b).rdcrc = s.rdcrc := (rfl)
@[simp] theorem State.putByte_crc (s : State) (a : Nat) (b : Byte) : (s.putByte a b).crc = s.crc := (rfl)
@[simp] theorem State.putByte_ecnt (s : State) (a : Nat) (b : Byte) : (s.putByte a b).ecnt = s.ecnt := (rfl)
@[simp] theorem State.putByte_status (s : State) (a : Nat) (b : Byte) : (s.putByte a b).status = s.status := (rfl)
@[simp] theorem State.putByte_esticky (s : State) (a : Nat) (b : Byte) : (s.putByte a b).esticky = s.esticky := (rfl)
@[simp] theorem State.putByte_frstate (s : State) (a : Nat) (b : Byte) : (s.putByte a b).frstate = s.frstate := (rfl)
@[simp] theorem State.putByte_frmode (s : State) (a : Nat) (b : Byte) : (s.putByte a b).frmode = s.frmode := (rfl)
@[simp] theorem State.putByte_seen (s : State) (a : Nat) (b : Byte) : (s.putByte a b).seen = s.seen := (rfl)
@[simp] theorem State.putByte_buf (s : State) (a : Nat) (b : Byte) : (s.putByte a b).buf = s.buf.putByte a b := (rfl)
@[simp] theorem State.putByte_params (s : State) (a : Nat) (b : Byte) : (s.putByte a b).params = s.params := (rfl)
@[simp] theorem State.putByte_resets (s : State) (a : Nat) (b : Byte) : (s.putByte a b).resets = s.resets := (rfl)
@[simp] theorem State.putByte_pending (s : State) (a : Nat) (b : Byte) : (s.putByte a b).pending = s.pending := (rfl)
@[simp] theorem State.putByte_reply (s : State) (a : Nat) (b : Byte) : (s.putByte a b).reply = s.reply := (rfl)
@[simp] theorem State.putByte_bufBytes (s : State) (a : Nat) (b : Byte) : (s.putByte a b).bufBytes = s.bufBytes := (rfl)
@[simp] theorem State.putByte_unlisted (s : State) (a : Nat) (b : Byte) : (s.putByte a b).unlisted = s.unlisted := (rfl)

/-! ### `State.memWrite` -/

@[simp] theorem State.memWrite_value (s : State) (a : Nat) (bs : List Byte) : (s.memWrite a bs).value = s.value := (rfl)
@[simp] theorem State.memWrite_start (s : State) (a : Nat) (bs : List Byte) : (s.memWrite a bs).start = s.start := (rfl)
@[simp] theorem State.memWrite_endBit (s : State) (a : Nat) (bs : List Byte) :
    (s.memWrite a bs).endBit = s.endBit := (rfl)
@[simp] theorem State.memWrite_base (s : State) (a : Nat) (bs : List Byte) : (s.memWrite a bs).base = s.base := (rfl)
@[simp] theorem State.memWrite_len (s : State) (a : Nat) (bs : List Byte) : (s.memWrite a bs).len = s.len := (rfl)
@[simp] theorem State.memWrite_pos (s : State) (a : Nat) (bs : List Byte) : (s.memWrite a bs).pos = s.pos := (rfl)
@[simp] theorem State.memWrite_limit (s : State) (a : Nat) (bs : List Byte) : (s.memWrite a bs).limit = s.limit := (rfl)
@[simp] theorem State.memWrite_devid (s : State) (a : Nat) (bs : List Byte) : (s.memWrite a bs).devid = s.devid := (rfl)
@[simp] theorem State.memWrite_blkid (s : State) (a : Nat) (bs : List Byte) : (s.memWrite a bs).blkid = s.blkid := (rfl)
@[simp] theorem State.memWrite_hlen (s : State) (a : Nat) (bs : List Byte) : (s.memWrite a bs).hlen = s.hlen := (rfl)
@[simp] theorem State.memWrite_rdcrc (s : State) (a : Nat) (bs : List Byte) : (s.memWrite a bs).rdcrc = s.rdcrc := (rfl)
@[simp] theorem State.memWrite_crc (s : State) (a : Nat) (bs : List Byte) : (s.memWrite a bs).crc = s.crc := (rfl)
@[simp] theorem State.memWrite_ecnt (s : State) (a : Nat) (bs : List Byte) : (s.memWrite a bs).ecnt = s.ecnt := (rfl)
@[simp] theorem State.memWrite_status (s : State) (a : Nat) (bs : List Byte) :
    (s.memWrite a bs).status = s.status := (rfl)
@[simp] theorem State.memWrite_esticky (s : State) (a : Nat) (bs : List Byte) :
    (s.memWrite a bs).esticky = s.esticky := (rfl)
@[simp] theorem State.memWrite_frstate (s : State) (a : Nat) (bs : List Byte) :
    (s.memWrite a bs).frstate = s.frstate := (rfl)
@[simp] theorem State.memWrite_frmode (s : State) (a : Nat) (bs : List Byte) :
    (s.memWrite a bs).frmode = s.frmode := (rfl)
@[simp] theorem State.memWrite_seen (s : State) (a : Nat) (bs : List Byte) : (s.memWrite a bs).seen = s.seen := (rfl)
@[simp] theorem State.memWrite_buf (s : State) (a : Nat) (bs : List Byte) :
    (s.memWrite a bs).buf = s.buf.putBytes a bs := (rfl)
@[simp] theorem State.memWrite_params (s : State) (a : Nat) (bs : List Byte) :
    (s.memWrite a bs).params = s.params := (rfl)
@[simp] theorem State.memWrite_resets (s : State) (a : Nat) (bs : List Byte) :
    (s.memWrite a bs).resets = s.resets := (rfl)
@[simp] theorem State.memWrite_pending (s : State) (a : Nat) (bs : List Byte) :
    (s.memWrite a bs).pending = s.pending := (rfl)
@[simp] theorem State.memWrite_reply (s : State) (a : Nat) (bs : List Byte) : (s.memWrite a bs).reply = s.reply := (rfl)
@[simp] theorem State.memWrite_bufBytes (s : State) (a : Nat) (bs : List Byte) : (s.memWrite a bs).bufBytes = s.bufBytes := (rfl)
@[simp] theorem State.memWrite_unlisted (s : State) (a : Nat) (bs : List Byte) : (s.memWrite a bs).unlisted = s.unlisted := (rfl)

/-! ### `State.packField` -/

@[simp] theorem State.packField_value (s : State) (q : Quirks) : (s.packField q).value = s.value := (rfl)
@[simp] theorem State.packField_start (s : State) (q : Quirks) : (s.packField q).start = s.start := (rfl)
@[simp] theorem State.packField_endBit (s : State) (q : Quirks) : (s.packField q).endBit = s.endBit := (rfl)
@[simp] theorem State.packField_base (s : State) (q : Quirks) : (s.packField q).base = s.base := (rfl)
@[simp] theorem State.packField_len (s : State) (q : Quirks) : (s.packField q).len = s.len := (rfl)
@[simp] theorem State.packField_pos (s : State) (q : Quirks) : (s.packField q).pos = s.pos := (rfl)
@[simp] theorem State.packField_limit (s : State) (q : Quirks) : (s.packField q).limit = s.limit := (rfl)
@[simp] theorem State.packField_devid (s : State) (q : Quirks) : (s.packField q).devid = s.devid := (rfl)
@[simp] theorem State.packField_blkid (s : State) (q : Quirks) : (s.packField q).blkid = s.blkid := (rfl)
@[simp] theorem State.packField_hlen (s : State) (q : Quirks) : (s.packField q).hlen = s.hlen := (rfl)
@[simp] theorem State.packField_rdcrc (s : State) (q : Quirks) : (s.packField q).rdcrc = s.rdcrc := (rfl)
@[simp] theorem State.packField_crc (s : State) (q : Quirks) : (s.packField q).crc = s.crc := (rfl)
@[simp] theorem State.packField_ecnt (s : State) (q : Quirks) : (s.packField q).ecnt = s.ecnt := (rfl)
@[simp] theorem State.packField_status (s : State) (q : Quirks) : (s.packField q).status = s.status := (rfl)
@[simp] theorem State.packField_esticky (s : State) (q : Quirks) : (s.packField q).esticky = s.esticky := (rfl)
@[simp] theorem State.packField_frstate (s : State) (q : Quirks) : (s.packField q).frstate = s.frstate := (rfl)
@[simp] theorem State.packField_frmode (s : State) (q : Quirks) : (s.packField q).frmode = s.frmode := (rfl)
@[simp] theorem State.packField_seen (s : State) (q : Quirks) : (s.packField q).seen = s.seen := (rfl)
@[simp] theorem State.packField_buf (s : State) (q : Quirks) :
    (s.packField q).buf = s.buf.packField s.unlisted s.base.toNat s.len.toNat s.value.toNat s.start.toNat s.endBit.toNat q := (rfl)
@[simp] theorem State.packField_params (s : State) (q : Quirks) : (s.packField q).params = s.params := (rfl)
@[simp] theorem State.packField_resets (s : State) (q : Quirks) : (s.packField q).resets = s.resets := (rfl)
@[simp] theorem State.packField_pending (s : State) (q : Quirks) : (s.packField q).pending = s.pending := (rfl)
@[simp] theorem State.packField_reply (s : State) (q : Quirks) : (s.packField q).reply = s.reply := (rfl)
@[simp] theorem State.packField_bufBytes (s : State) (q : Quirks) : (s.packField q).bufBytes = s.bufBytes := (rfl)
@[simp] theorem State.packField_unlisted (s : State) (q : Quirks) : (s.packField q).unlisted = s.unlisted := (rfl)

/-! ### `State.beginStream` -/

@[simp] theorem State.beginStream_value (s : State) (m : BitVec 2) (lim : Nat) :
    (s.beginStream m lim).value = s.value := (rfl)
@[simp] theorem State.beginStream_start (s : State) (m : BitVec 2) (lim : Nat) :
    (s.beginStream m lim).start = s.start := (rfl)
@[simp] theorem State.beginStream_endBit (s : State) (m : BitVec 2) (lim : Nat) :
    (s.beginStream m lim).endBit = s.endBit := (rfl)
@[simp] theorem State.beginStream_base (s : State) (m : BitVec 2) (lim : Nat) :
    (s.beginStream m lim).base = s.base := (rfl)
@[simp] theorem State.beginStream_len (s : State) (m : BitVec 2) (lim : Nat) : (s.beginStream m lim).len = s.len := (rfl)
@[simp] theorem State.beginStream_pos (s : State) (m : BitVec 2) (lim : Nat) : (s.beginStream m lim).pos = s.base := (rfl)
@[simp] theorem State.beginStream_limit (s : State) (m : BitVec 2) (lim : Nat) :
    (s.beginStream m lim).limit = BitVec.ofNat 32 lim := (rfl)
@[simp] theorem State.beginStream_devid (s : State) (m : BitVec 2) (lim : Nat) :
    (s.beginStream m lim).devid = s.devid := (rfl)
@[simp] theorem State.beginStream_blkid (s : State) (m : BitVec 2) (lim : Nat) :
    (s.beginStream m lim).blkid = s.blkid := (rfl)
@[simp] theorem State.beginStream_hlen (s : State) (m : BitVec 2) (lim : Nat) :
    (s.beginStream m lim).hlen = s.hlen := (rfl)
@[simp] theorem State.beginStream_rdcrc (s : State) (m : BitVec 2) (lim : Nat) :
    (s.beginStream m lim).rdcrc = s.rdcrc := (rfl)
@[simp] theorem State.beginStream_crc (s : State) (m : BitVec 2) (lim : Nat) : (s.beginStream m lim).crc = s.crc := (rfl)
@[simp] theorem State.beginStream_ecnt (s : State) (m : BitVec 2) (lim : Nat) : (s.beginStream m lim).ecnt = 0 := (rfl)
@[simp] theorem State.beginStream_status (s : State) (m : BitVec 2) (lim : Nat) :
    (s.beginStream m lim).status = s.status := (rfl)
@[simp] theorem State.beginStream_esticky (s : State) (m : BitVec 2) (lim : Nat) :
    (s.beginStream m lim).esticky = s.esticky := (rfl)
@[simp] theorem State.beginStream_frstate (s : State) (m : BitVec 2) (lim : Nat) :
    (s.beginStream m lim).frstate = FrState.devid := (rfl)
@[simp] theorem State.beginStream_frmode (s : State) (m : BitVec 2) (lim : Nat) :
    (s.beginStream m lim).frmode = m := (rfl)
@[simp] theorem State.beginStream_seen (s : State) (m : BitVec 2) (lim : Nat) : (s.beginStream m lim).seen = 0 := (rfl)
@[simp] theorem State.beginStream_buf (s : State) (m : BitVec 2) (lim : Nat) : (s.beginStream m lim).buf = s.buf := (rfl)
@[simp] theorem State.beginStream_params (s : State) (m : BitVec 2) (lim : Nat) :
    (s.beginStream m lim).params = s.params := (rfl)
@[simp] theorem State.beginStream_resets (s : State) (m : BitVec 2) (lim : Nat) :
    (s.beginStream m lim).resets = s.resets := (rfl)
@[simp] theorem State.beginStream_pending (s : State) (m : BitVec 2) (lim : Nat) :
    (s.beginStream m lim).pending = s.pending := (rfl)
@[simp] theorem State.beginStream_reply (s : State) (m : BitVec 2) (lim : Nat) :
    (s.beginStream m lim).reply = s.reply := (rfl)
@[simp] theorem State.beginStream_bufBytes (s : State) (m : BitVec 2) (lim : Nat) : (s.beginStream m lim).bufBytes = s.bufBytes := (rfl)
@[simp] theorem State.beginStream_unlisted (s : State) (m : BitVec 2) (lim : Nat) : (s.beginStream m lim).unlisted = s.unlisted := (rfl)
@[simp] theorem State.beginStream_bufByte (s : State) (m : BitVec 2) (lim : Nat) : (s.beginStream m lim).bufByte = s.bufByte := (rfl)
@[simp] theorem State.beginStream_memRead (s : State) (m : BitVec 2) (lim : Nat) : (s.beginStream m lim).memRead = s.memRead := (rfl)

/-! ### `State.readHeader` -/

@[simp] theorem State.readHeader_value (s : State) (h : List Byte) : (s.readHeader h).value = s.value := (rfl)
@[simp] theorem State.readHeader_start (s : State) (h : List Byte) : (s.readHeader h).start = s.start := (rfl)
@[simp] theorem State.readHeader_endBit (s : State) (h : List Byte) : (s.readHeader h).endBit = s.endBit := (rfl)
@[simp] theorem State.readHeader_base (s : State) (h : List Byte) : (s.readHeader h).base = s.base := (rfl)
@[simp] theorem State.readHeader_len (s : State) (h : List Byte) : (s.readHeader h).len = s.len := (rfl)
@[simp] theorem State.readHeader_pos (s : State) (h : List Byte) : (s.readHeader h).pos = s.pos := (rfl)
@[simp] theorem State.readHeader_limit (s : State) (h : List Byte) : (s.readHeader h).limit = s.limit := (rfl)
@[simp] theorem State.readHeader_devid (s : State) (h : List Byte) : (s.readHeader h).devid = s.devid := (rfl)
@[simp] theorem State.readHeader_blkid (s : State) (h : List Byte) :
    (s.readHeader h).blkid = BitVec.ofNat 8 (unpack h 31 24 lswOnly) := (rfl)
@[simp] theorem State.readHeader_hlen (s : State) (h : List Byte) :
    (s.readHeader h).hlen = BitVec.ofNat 24 (unpack h 55 32 lswOnly) := (rfl)
@[simp] theorem State.readHeader_rdcrc (s : State) (h : List Byte) :
    (s.readHeader h).rdcrc = BitVec.ofNat 32 (unpack h 95 64 lswOnly) := (rfl)
@[simp] theorem State.readHeader_crc (s : State) (h : List Byte) : (s.readHeader h).crc = s.crc := (rfl)
@[simp] theorem State.readHeader_ecnt (s : State) (h : List Byte) : (s.readHeader h).ecnt = s.ecnt := (rfl)
@[simp] theorem State.readHeader_status (s : State) (h : List Byte) : (s.readHeader h).status = s.status := (rfl)
@[simp] theorem State.readHeader_esticky (s : State) (h : List Byte) : (s.readHeader h).esticky = s.esticky := (rfl)
@[simp] theorem State.readHeader_frstate (s : State) (h : List Byte) : (s.readHeader h).frstate = s.frstate := (rfl)
@[simp] theorem State.readHeader_frmode (s : State) (h : List Byte) : (s.readHeader h).frmode = s.frmode := (rfl)
@[simp] theorem State.readHeader_seen (s : State) (h : List Byte) : (s.readHeader h).seen = s.seen := (rfl)
@[simp] theorem State.readHeader_buf (s : State) (h : List Byte) : (s.readHeader h).buf = s.buf := (rfl)
@[simp] theorem State.readHeader_params (s : State) (h : List Byte) : (s.readHeader h).params = s.params := (rfl)
@[simp] theorem State.readHeader_resets (s : State) (h : List Byte) : (s.readHeader h).resets = s.resets := (rfl)
@[simp] theorem State.readHeader_pending (s : State) (h : List Byte) : (s.readHeader h).pending = s.pending := (rfl)
@[simp] theorem State.readHeader_reply (s : State) (h : List Byte) : (s.readHeader h).reply = s.reply := (rfl)
@[simp] theorem State.readHeader_bufBytes (s : State) (h : List Byte) : (s.readHeader h).bufBytes = s.bufBytes := (rfl)
@[simp] theorem State.readHeader_unlisted (s : State) (h : List Byte) : (s.readHeader h).unlisted = s.unlisted := (rfl)
@[simp] theorem State.readHeader_bufByte (s : State) (h : List Byte) : (s.readHeader h).bufByte = s.bufByte := (rfl)
@[simp] theorem State.readHeader_memRead (s : State) (h : List Byte) : (s.readHeader h).memRead = s.memRead := (rfl)

/-! ### `State.setValue` -/

@[simp] theorem State.setValue_value (s : State) (v : BitVec 64) : (s.setValue v).value = v := (rfl)
@[simp] theorem State.setValue_start (s : State) (v : BitVec 64) : (s.setValue v).start = s.start := (rfl)
@[simp] theorem State.setValue_endBit (s : State) (v : BitVec 64) : (s.setValue v).endBit = s.endBit := (rfl)
@[simp] theorem State.setValue_base (s : State) (v : BitVec 64) : (s.setValue v).base = s.base := (rfl)
@[simp] theorem State.setValue_len (s : State) (v : BitVec 64) : (s.setValue v).len = s.len := (rfl)
@[simp] theorem State.setValue_pos (s : State) (v : BitVec 64) : (s.setValue v).pos = s.pos := (rfl)
@[simp] theorem State.setValue_limit (s : State) (v : BitVec 64) : (s.setValue v).limit = s.limit := (rfl)
@[simp] theorem State.setValue_devid (s : State) (v : BitVec 64) : (s.setValue v).devid = s.devid := (rfl)
@[simp] theorem State.setValue_blkid (s : State) (v : BitVec 64) : (s.setValue v).blkid = s.blkid := (rfl)
@[simp] theorem State.setValue_hlen (s : State) (v : BitVec 64) : (s.setValue v).hlen = s.hlen := (rfl)
@[simp] theorem State.setValue_rdcrc (s : State) (v : BitVec 64) : (s.setValue v).rdcrc = s.rdcrc := (rfl)
@[simp] theorem State.setValue_crc (s : State) (v : BitVec 64) : (s.setValue v).crc = s.crc := (rfl)
@[simp] theorem State.setValue_ecnt (s : State) (v : BitVec 64) : (s.setValue v).ecnt = s.ecnt := (rfl)
@[simp] theorem State.setValue_status (s : State) (v : BitVec 64) : (s.setValue v).status = s.status := (rfl)
@[simp] theorem State.setValue_esticky (s : State) (v : BitVec 64) : (s.setValue v).esticky = s.esticky := (rfl)
@[simp] theorem State.setValue_frstate (s : State) (v : BitVec 64) : (s.setValue v).frstate = s.frstate := (rfl)
@[simp] theorem State.setValue_frmode (s : State) (v : BitVec 64) : (s.setValue v).frmode = s.frmode := (rfl)
@[simp] theorem State.setValue_seen (s : State) (v : BitVec 64) : (s.setValue v).seen = s.seen := (rfl)
@[simp] theorem State.setValue_buf (s : State) (v : BitVec 64) : (s.setValue v).buf = s.buf := (rfl)
@[simp] theorem State.setValue_params (s : State) (v : BitVec 64) : (s.setValue v).params = s.params := (rfl)
@[simp] theorem State.setValue_resets (s : State) (v : BitVec 64) : (s.setValue v).resets = s.resets := (rfl)
@[simp] theorem State.setValue_pending (s : State) (v : BitVec 64) : (s.setValue v).pending = s.pending := (rfl)
@[simp] theorem State.setValue_reply (s : State) (v : BitVec 64) : (s.setValue v).reply = s.reply := (rfl)
@[simp] theorem State.setValue_bufBytes (s : State) (v : BitVec 64) : (s.setValue v).bufBytes = s.bufBytes := (rfl)
@[simp] theorem State.setValue_unlisted (s : State) (v : BitVec 64) : (s.setValue v).unlisted = s.unlisted := (rfl)
@[simp] theorem State.setValue_bufByte (s : State) (v : BitVec 64) : (s.setValue v).bufByte = s.bufByte := (rfl)
@[simp] theorem State.setValue_memRead (s : State) (v : BitVec 64) : (s.setValue v).memRead = s.memRead := (rfl)

/-! ### `State.setCrc` -/

@[simp] theorem State.setCrc_value (s : State) (c : Word) : (s.setCrc c).value = s.value := (rfl)
@[simp] theorem State.setCrc_start (s : State) (c : Word) : (s.setCrc c).start = s.start := (rfl)
@[simp] theorem State.setCrc_endBit (s : State) (c : Word) : (s.setCrc c).endBit = s.endBit := (rfl)
@[simp] theorem State.setCrc_base (s : State) (c : Word) : (s.setCrc c).base = s.base := (rfl)
@[simp] theorem State.setCrc_len (s : State) (c : Word) : (s.setCrc c).len = s.len := (rfl)
@[simp] theorem State.setCrc_pos (s : State) (c : Word) : (s.setCrc c).pos = s.pos := (rfl)
@[simp] theorem State.setCrc_limit (s : State) (c : Word) : (s.setCrc c).limit = s.limit := (rfl)
@[simp] theorem State.setCrc_devid (s : State) (c : Word) : (s.setCrc c).devid = s.devid := (rfl)
@[simp] theorem State.setCrc_blkid (s : State) (c : Word) : (s.setCrc c).blkid = s.blkid := (rfl)
@[simp] theorem State.setCrc_hlen (s : State) (c : Word) : (s.setCrc c).hlen = s.hlen := (rfl)
@[simp] theorem State.setCrc_rdcrc (s : State) (c : Word) : (s.setCrc c).rdcrc = s.rdcrc := (rfl)
@[simp] theorem State.setCrc_crc (s : State) (c : Word) : (s.setCrc c).crc = c := (rfl)
@[simp] theorem State.setCrc_ecnt (s : State) (c : Word) : (s.setCrc c).ecnt = s.ecnt := (rfl)
@[simp] theorem State.setCrc_status (s : State) (c : Word) : (s.setCrc c).status = s.status := (rfl)
@[simp] theorem State.setCrc_esticky (s : State) (c : Word) : (s.setCrc c).esticky = s.esticky := (rfl)
@[simp] theorem State.setCrc_frstate (s : State) (c : Word) : (s.setCrc c).frstate = s.frstate := (rfl)
@[simp] theorem State.setCrc_frmode (s : State) (c : Word) : (s.setCrc c).frmode = s.frmode := (rfl)
@[simp] theorem State.setCrc_seen (s : State) (c : Word) : (s.setCrc c).seen = s.seen := (rfl)
@[simp] theorem State.setCrc_buf (s : State) (c : Word) : (s.setCrc c).buf = s.buf := (rfl)
@[simp] theorem State.setCrc_params (s : State) (c : Word) : (s.setCrc c).params = s.params := (rfl)
@[simp] theorem State.setCrc_resets (s : State) (c : Word) : (s.setCrc c).resets = s.resets := (rfl)
@[simp] theorem State.setCrc_pending (s : State) (c : Word) : (s.setCrc c).pending = s.pending := (rfl)
@[simp] theorem State.setCrc_reply (s : State) (c : Word) : (s.setCrc c).reply = s.reply := (rfl)
@[simp] theorem State.setCrc_bufBytes (s : State) (c : Word) : (s.setCrc c).bufBytes = s.bufBytes := (rfl)
@[simp] theorem State.setCrc_unlisted (s : State) (c : Word) : (s.setCrc c).unlisted = s.unlisted := (rfl)
@[simp] theorem State.setCrc_bufByte (s : State) (c : Word) : (s.setCrc c).bufByte = s.bufByte := (rfl)
@[simp] theorem State.setCrc_memRead (s : State) (c : Word) : (s.setCrc c).memRead = s.memRead := (rfl)

/-! ### `State.setDevid` -/

@[simp] theorem State.setDevid_value (s : State) (d : Word) : (s.setDevid d).value = s.value := (rfl)
@[simp] theorem State.setDevid_start (s : State) (d : Word) : (s.setDevid d).start = s.start := (rfl)
@[simp] theorem State.setDevid_endBit (s : State) (d : Word) : (s.setDevid d).endBit = s.endBit := (rfl)
@[simp] theorem State.setDevid_base (s : State) (d : Word) : (s.setDevid d).base = s.base := (rfl)
@[simp] theorem State.setDevid_len (s : State) (d : Word) : (s.setDevid d).len = s.len := (rfl)
@[simp] theorem State.setDevid_pos (s : State) (d : Word) : (s.setDevid d).pos = s.pos := (rfl)
@[simp] theorem State.setDevid_limit (s : State) (d : Word) : (s.setDevid d).limit = s.limit := (rfl)
@[simp] theorem State.setDevid_devid (s : State) (d : Word) : (s.setDevid d).devid = d := (rfl)
@[simp] theorem State.setDevid_blkid (s : State) (d : Word) : (s.setDevid d).blkid = s.blkid := (rfl)
@[simp] theorem State.setDevid_hlen (s : State) (d : Word) : (s.setDevid d).hlen = s.hlen := (rfl)
@[simp] theorem State.setDevid_rdcrc (s : State) (d : Word) : (s.setDevid d).rdcrc = s.rdcrc := (rfl)
@[simp] theorem State.setDevid_crc (s : State) (d : Word) : (s.setDevid d).crc = s.crc := (rfl)
@[simp] theorem State.setDevid_ecnt (s : State) (d : Word) : (s.setDevid d).ecnt = s.ecnt := (rfl)
@[simp] theorem State.setDevid_status (s : State) (d : Word) : (s.setDevid d).status = s.status := (rfl)
@[simp] theorem State.setDevid_esticky (s : State) (d : Word) : (s.setDevid d).esticky = s.esticky := (rfl)
@[simp] theorem State.setDevid_frstate (s : State) (d : Word) : (s.setDevid d).frstate = s.frstate := (rfl)
@[simp] theorem State.setDevid_frmode (s : State) (d : Word) : (s.setDevid d).frmode = s.frmode := (rfl)
@[simp] theorem State.setDevid_seen (s : State) (d : Word) : (s.setDevid d).seen = s.seen := (rfl)
@[simp] theorem State.setDevid_buf (s : State) (d : Word) : (s.setDevid d).buf = s.buf := (rfl)
@[simp] theorem State.setDevid_params (s : State) (d : Word) : (s.setDevid d).params = s.params := (rfl)
@[simp] theorem State.setDevid_resets (s : State) (d : Word) : (s.setDevid d).resets = s.resets := (rfl)
@[simp] theorem State.setDevid_pending (s : State) (d : Word) : (s.setDevid d).pending = s.pending := (rfl)
@[simp] theorem State.setDevid_reply (s : State) (d : Word) : (s.setDevid d).reply = s.reply := (rfl)
@[simp] theorem State.setDevid_bufBytes (s : State) (d : Word) : (s.setDevid d).bufBytes = s.bufBytes := (rfl)
@[simp] theorem State.setDevid_unlisted (s : State) (d : Word) : (s.setDevid d).unlisted = s.unlisted := (rfl)
@[simp] theorem State.setDevid_bufByte (s : State) (d : Word) : (s.setDevid d).bufByte = s.bufByte := (rfl)
@[simp] theorem State.setDevid_memRead (s : State) (d : Word) : (s.setDevid d).memRead = s.memRead := (rfl)

/-! ### `State.setSeen` -/

@[simp] theorem State.setSeen_value (s : State) (v : BitVec 256) : (s.setSeen v).value = s.value := (rfl)
@[simp] theorem State.setSeen_start (s : State) (v : BitVec 256) : (s.setSeen v).start = s.start := (rfl)
@[simp] theorem State.setSeen_endBit (s : State) (v : BitVec 256) : (s.setSeen v).endBit = s.endBit := (rfl)
@[simp] theorem State.setSeen_base (s : State) (v : BitVec 256) : (s.setSeen v).base = s.base := (rfl)
@[simp] theorem State.setSeen_len (s : State) (v : BitVec 256) : (s.setSeen v).len = s.len := (rfl)
@[simp] theorem State.setSeen_pos (s : State) (v : BitVec 256) : (s.setSeen v).pos = s.pos := (rfl)
@[simp] theorem State.setSeen_limit (s : State) (v : BitVec 256) : (s.setSeen v).limit = s.limit := (rfl)
@[simp] theorem State.setSeen_devid (s : State) (v : BitVec 256) : (s.setSeen v).devid = s.devid := (rfl)
@[simp] theorem State.setSeen_blkid (s : State) (v : BitVec 256) : (s.setSeen v).blkid = s.blkid := (rfl)
@[simp] theorem State.setSeen_hlen (s : State) (v : BitVec 256) : (s.setSeen v).hlen = s.hlen := (rfl)
@[simp] theorem State.setSeen_rdcrc (s : State) (v : BitVec 256) : (s.setSeen v).rdcrc = s.rdcrc := (rfl)
@[simp] theorem State.setSeen_crc (s : State) (v : BitVec 256) : (s.setSeen v).crc = s.crc := (rfl)
@[simp] theorem State.setSeen_ecnt (s : State) (v : BitVec 256) : (s.setSeen v).ecnt = s.ecnt := (rfl)
@[simp] theorem State.setSeen_status (s : State) (v : BitVec 256) : (s.setSeen v).status = s.status := (rfl)
@[simp] theorem State.setSeen_esticky (s : State) (v : BitVec 256) : (s.setSeen v).esticky = s.esticky := (rfl)
@[simp] theorem State.setSeen_frstate (s : State) (v : BitVec 256) : (s.setSeen v).frstate = s.frstate := (rfl)
@[simp] theorem State.setSeen_frmode (s : State) (v : BitVec 256) : (s.setSeen v).frmode = s.frmode := (rfl)
@[simp] theorem State.setSeen_seen (s : State) (v : BitVec 256) : (s.setSeen v).seen = v := (rfl)
@[simp] theorem State.setSeen_buf (s : State) (v : BitVec 256) : (s.setSeen v).buf = s.buf := (rfl)
@[simp] theorem State.setSeen_params (s : State) (v : BitVec 256) : (s.setSeen v).params = s.params := (rfl)
@[simp] theorem State.setSeen_resets (s : State) (v : BitVec 256) : (s.setSeen v).resets = s.resets := (rfl)
@[simp] theorem State.setSeen_pending (s : State) (v : BitVec 256) : (s.setSeen v).pending = s.pending := (rfl)
@[simp] theorem State.setSeen_reply (s : State) (v : BitVec 256) : (s.setSeen v).reply = s.reply := (rfl)
@[simp] theorem State.setSeen_bufBytes (s : State) (v : BitVec 256) : (s.setSeen v).bufBytes = s.bufBytes := (rfl)
@[simp] theorem State.setSeen_unlisted (s : State) (v : BitVec 256) : (s.setSeen v).unlisted = s.unlisted := (rfl)
@[simp] theorem State.setSeen_bufByte (s : State) (v : BitVec 256) : (s.setSeen v).bufByte = s.bufByte := (rfl)
@[simp] theorem State.setSeen_memRead (s : State) (v : BitVec 256) : (s.setSeen v).memRead = s.memRead := (rfl)

/-! ### `State.setCrcs` -/

@[simp] theorem State.setCrcs_value (s : State) (c r : Word) : (s.setCrcs c r).value = s.value := (rfl)
@[simp] theorem State.setCrcs_start (s : State) (c r : Word) : (s.setCrcs c r).start = s.start := (rfl)
@[simp] theorem State.setCrcs_endBit (s : State) (c r : Word) : (s.setCrcs c r).endBit = s.endBit := (rfl)
@[simp] theorem State.setCrcs_base (s : State) (c r : Word) : (s.setCrcs c r).base = s.base := (rfl)
@[simp] theorem State.setCrcs_len (s : State) (c r : Word) : (s.setCrcs c r).len = s.len := (rfl)
@[simp] theorem State.setCrcs_pos (s : State) (c r : Word) : (s.setCrcs c r).pos = s.pos := (rfl)
@[simp] theorem State.setCrcs_limit (s : State) (c r : Word) : (s.setCrcs c r).limit = s.limit := (rfl)
@[simp] theorem State.setCrcs_devid (s : State) (c r : Word) : (s.setCrcs c r).devid = s.devid := (rfl)
@[simp] theorem State.setCrcs_blkid (s : State) (c r : Word) : (s.setCrcs c r).blkid = s.blkid := (rfl)
@[simp] theorem State.setCrcs_hlen (s : State) (c r : Word) : (s.setCrcs c r).hlen = s.hlen := (rfl)
@[simp] theorem State.setCrcs_rdcrc (s : State) (c r : Word) : (s.setCrcs c r).rdcrc = r := (rfl)
@[simp] theorem State.setCrcs_crc (s : State) (c r : Word) : (s.setCrcs c r).crc = c := (rfl)
@[simp] theorem State.setCrcs_ecnt (s : State) (c r : Word) : (s.setCrcs c r).ecnt = s.ecnt := (rfl)
@[simp] theorem State.setCrcs_status (s : State) (c r : Word) : (s.setCrcs c r).status = s.status := (rfl)
@[simp] theorem State.setCrcs_esticky (s : State) (c r : Word) : (s.setCrcs c r).esticky = s.esticky := (rfl)
@[simp] theorem State.setCrcs_frstate (s : State) (c r : Word) : (s.setCrcs c r).frstate = s.frstate := (rfl)
@[simp] theorem State.setCrcs_frmode (s : State) (c r : Word) : (s.setCrcs c r).frmode = s.frmode := (rfl)
@[simp] theorem State.setCrcs_seen (s : State) (c r : Word) : (s.setCrcs c r).seen = s.seen := (rfl)
@[simp] theorem State.setCrcs_buf (s : State) (c r : Word) : (s.setCrcs c r).buf = s.buf := (rfl)
@[simp] theorem State.setCrcs_params (s : State) (c r : Word) : (s.setCrcs c r).params = s.params := (rfl)
@[simp] theorem State.setCrcs_resets (s : State) (c r : Word) : (s.setCrcs c r).resets = s.resets := (rfl)
@[simp] theorem State.setCrcs_pending (s : State) (c r : Word) : (s.setCrcs c r).pending = s.pending := (rfl)
@[simp] theorem State.setCrcs_reply (s : State) (c r : Word) : (s.setCrcs c r).reply = s.reply := (rfl)
@[simp] theorem State.setCrcs_bufBytes (s : State) (c r : Word) : (s.setCrcs c r).bufBytes = s.bufBytes := (rfl)
@[simp] theorem State.setCrcs_unlisted (s : State) (c r : Word) : (s.setCrcs c r).unlisted = s.unlisted := (rfl)
@[simp] theorem State.setCrcs_bufByte (s : State) (c r : Word) : (s.setCrcs c r).bufByte = s.bufByte := (rfl)
@[simp] theorem State.setCrcs_memRead (s : State) (c r : Word) : (s.setCrcs c r).memRead = s.memRead := (rfl)

/-! ### `State.answer` -/

@[simp] theorem State.answer_value (s : State) (r : Reply) : (s.answer r).value = s.value := (rfl)
@[simp] theorem State.answer_start (s : State) (r : Reply) : (s.answer r).start = s.start := (rfl)
@[simp] theorem State.answer_endBit (s : State) (r : Reply) : (s.answer r).endBit = s.endBit := (rfl)
@[simp] theorem State.answer_base (s : State) (r : Reply) : (s.answer r).base = s.base := (rfl)
@[simp] theorem State.answer_len (s : State) (r : Reply) : (s.answer r).len = s.len := (rfl)
@[simp] theorem State.answer_pos (s : State) (r : Reply) : (s.answer r).pos = s.pos := (rfl)
@[simp] theorem State.answer_limit (s : State) (r : Reply) : (s.answer r).limit = s.limit := (rfl)
@[simp] theorem State.answer_devid (s : State) (r : Reply) : (s.answer r).devid = s.devid := (rfl)
@[simp] theorem State.answer_blkid (s : State) (r : Reply) : (s.answer r).blkid = s.blkid := (rfl)
@[simp] theorem State.answer_hlen (s : State) (r : Reply) : (s.answer r).hlen = s.hlen := (rfl)
@[simp] theorem State.answer_rdcrc (s : State) (r : Reply) : (s.answer r).rdcrc = s.rdcrc := (rfl)
@[simp] theorem State.answer_crc (s : State) (r : Reply) : (s.answer r).crc = s.crc := (rfl)
@[simp] theorem State.answer_ecnt (s : State) (r : Reply) : (s.answer r).ecnt = s.ecnt := (rfl)
@[simp] theorem State.answer_status (s : State) (r : Reply) : (s.answer r).status = s.status := (rfl)
@[simp] theorem State.answer_esticky (s : State) (r : Reply) : (s.answer r).esticky = s.esticky := (rfl)
@[simp] theorem State.answer_frstate (s : State) (r : Reply) : (s.answer r).frstate = s.frstate := (rfl)
@[simp] theorem State.answer_frmode (s : State) (r : Reply) : (s.answer r).frmode = s.frmode := (rfl)
@[simp] theorem State.answer_seen (s : State) (r : Reply) : (s.answer r).seen = s.seen := (rfl)
@[simp] theorem State.answer_buf (s : State) (r : Reply) : (s.answer r).buf = s.buf := (rfl)
@[simp] theorem State.answer_params (s : State) (r : Reply) : (s.answer r).params = s.params := (rfl)
@[simp] theorem State.answer_resets (s : State) (r : Reply) : (s.answer r).resets = s.resets := (rfl)
@[simp] theorem State.answer_pending (s : State) (r : Reply) : (s.answer r).pending = s.pending := (rfl)
@[simp] theorem State.answer_reply (s : State) (r : Reply) : (s.answer r).reply = some r := (rfl)
@[simp] theorem State.answer_bufBytes (s : State) (r : Reply) : (s.answer r).bufBytes = s.bufBytes := (rfl)
@[simp] theorem State.answer_unlisted (s : State) (r : Reply) : (s.answer r).unlisted = s.unlisted := (rfl)
@[simp] theorem State.answer_bufByte (s : State) (r : Reply) : (s.answer r).bufByte = s.bufByte := (rfl)
@[simp] theorem State.answer_memRead (s : State) (r : Reply) : (s.answer r).memRead = s.memRead := (rfl)

/-! ### `State.taken` -/

@[simp] theorem State.taken_value (s : State) (rest : List Event) : (s.taken rest).value = s.value := (rfl)
@[simp] theorem State.taken_start (s : State) (rest : List Event) : (s.taken rest).start = s.start := (rfl)
@[simp] theorem State.taken_endBit (s : State) (rest : List Event) : (s.taken rest).endBit = s.endBit := (rfl)
@[simp] theorem State.taken_base (s : State) (rest : List Event) : (s.taken rest).base = s.base := (rfl)
@[simp] theorem State.taken_len (s : State) (rest : List Event) : (s.taken rest).len = s.len := (rfl)
@[simp] theorem State.taken_pos (s : State) (rest : List Event) : (s.taken rest).pos = s.pos := (rfl)
@[simp] theorem State.taken_limit (s : State) (rest : List Event) : (s.taken rest).limit = s.limit := (rfl)
@[simp] theorem State.taken_devid (s : State) (rest : List Event) : (s.taken rest).devid = s.devid := (rfl)
@[simp] theorem State.taken_blkid (s : State) (rest : List Event) : (s.taken rest).blkid = s.blkid := (rfl)
@[simp] theorem State.taken_hlen (s : State) (rest : List Event) : (s.taken rest).hlen = s.hlen := (rfl)
@[simp] theorem State.taken_rdcrc (s : State) (rest : List Event) : (s.taken rest).rdcrc = s.rdcrc := (rfl)
@[simp] theorem State.taken_crc (s : State) (rest : List Event) : (s.taken rest).crc = s.crc := (rfl)
@[simp] theorem State.taken_ecnt (s : State) (rest : List Event) : (s.taken rest).ecnt = s.ecnt := (rfl)
@[simp] theorem State.taken_status (s : State) (rest : List Event) : (s.taken rest).status = s.status := (rfl)
@[simp] theorem State.taken_esticky (s : State) (rest : List Event) : (s.taken rest).esticky = s.esticky := (rfl)
@[simp] theorem State.taken_frstate (s : State) (rest : List Event) : (s.taken rest).frstate = s.frstate := (rfl)
@[simp] theorem State.taken_frmode (s : State) (rest : List Event) : (s.taken rest).frmode = s.frmode := (rfl)
@[simp] theorem State.taken_seen (s : State) (rest : List Event) : (s.taken rest).seen = s.seen := (rfl)
@[simp] theorem State.taken_buf (s : State) (rest : List Event) : (s.taken rest).buf = s.buf := (rfl)
@[simp] theorem State.taken_params (s : State) (rest : List Event) : (s.taken rest).params = s.params := (rfl)
@[simp] theorem State.taken_resets (s : State) (rest : List Event) : (s.taken rest).resets = s.resets := (rfl)
@[simp] theorem State.taken_pending (s : State) (rest : List Event) : (s.taken rest).pending = rest := (rfl)
@[simp] theorem State.taken_reply (s : State) (rest : List Event) : (s.taken rest).reply = none := (rfl)
@[simp] theorem State.taken_bufBytes (s : State) (rest : List Event) : (s.taken rest).bufBytes = s.bufBytes := (rfl)
@[simp] theorem State.taken_unlisted (s : State) (rest : List Event) : (s.taken rest).unlisted = s.unlisted := (rfl)
@[simp] theorem State.taken_bufByte (s : State) (rest : List Event) : (s.taken rest).bufByte = s.bufByte := (rfl)
@[simp] theorem State.taken_memRead (s : State) (rest : List Event) : (s.taken rest).memRead = s.memRead := (rfl)

/-! ### `State.issue` -/

@[simp] theorem State.issue_value (s : State) (w : Word) : (s.issue w).value = s.value := (rfl)
@[simp] theorem State.issue_start (s : State) (w : Word) : (s.issue w).start = s.start := (rfl)
@[simp] theorem State.issue_endBit (s : State) (w : Word) : (s.issue w).endBit = s.endBit := (rfl)
@[simp] theorem State.issue_base (s : State) (w : Word) : (s.issue w).base = s.base := (rfl)
@[simp] theorem State.issue_len (s : State) (w : Word) : (s.issue w).len = s.len := (rfl)
@[simp] theorem State.issue_pos (s : State) (w : Word) : (s.issue w).pos = s.pos := (rfl)
@[simp] theorem State.issue_limit (s : State) (w : Word) : (s.issue w).limit = s.limit := (rfl)
@[simp] theorem State.issue_devid (s : State) (w : Word) : (s.issue w).devid = s.devid := (rfl)
@[simp] theorem State.issue_blkid (s : State) (w : Word) : (s.issue w).blkid = s.blkid := (rfl)
@[simp] theorem State.issue_hlen (s : State) (w : Word) : (s.issue w).hlen = s.hlen := (rfl)
@[simp] theorem State.issue_rdcrc (s : State) (w : Word) : (s.issue w).rdcrc = s.rdcrc := (rfl)
@[simp] theorem State.issue_crc (s : State) (w : Word) : (s.issue w).crc = s.crc := (rfl)
@[simp] theorem State.issue_ecnt (s : State) (w : Word) : (s.issue w).ecnt = s.ecnt := (rfl)
@[simp] theorem State.issue_status (s : State) (w : Word) : (s.issue w).status = s.status := (rfl)
@[simp] theorem State.issue_esticky (s : State) (w : Word) : (s.issue w).esticky = s.esticky := (rfl)
@[simp] theorem State.issue_frstate (s : State) (w : Word) : (s.issue w).frstate = s.frstate := (rfl)
@[simp] theorem State.issue_frmode (s : State) (w : Word) : (s.issue w).frmode = s.frmode := (rfl)
@[simp] theorem State.issue_seen (s : State) (w : Word) : (s.issue w).seen = s.seen := (rfl)
@[simp] theorem State.issue_buf (s : State) (w : Word) : (s.issue w).buf = s.buf := (rfl)
@[simp] theorem State.issue_params (s : State) (w : Word) : (s.issue w).params = s.params := (rfl)
@[simp] theorem State.issue_resets (s : State) (w : Word) : (s.issue w).resets = s.resets := (rfl)
@[simp] theorem State.issue_pending (s : State) (w : Word) : (s.issue w).pending = .op (.cmd w) :: s.pending := (rfl)
@[simp] theorem State.issue_reply (s : State) (w : Word) : (s.issue w).reply = s.reply := (rfl)
@[simp] theorem State.issue_bufBytes (s : State) (w : Word) : (s.issue w).bufBytes = s.bufBytes := (rfl)
@[simp] theorem State.issue_unlisted (s : State) (w : Word) : (s.issue w).unlisted = s.unlisted := (rfl)
@[simp] theorem State.issue_bufByte (s : State) (w : Word) : (s.issue w).bufByte = s.bufByte := (rfl)
@[simp] theorem State.issue_memRead (s : State) (w : Word) : (s.issue w).memRead = s.memRead := (rfl)

/-! ### `State.countEntries` and `State.afterReset` -/

@[simp] theorem State.countEntries_value (s : State) (n : Nat) : (s.countEntries n).value = s.value := (rfl)
@[simp] theorem State.countEntries_start (s : State) (n : Nat) : (s.countEntries n).start = s.start := (rfl)
@[simp] theorem State.countEntries_endBit (s : State) (n : Nat) : (s.countEntries n).endBit = s.endBit := (rfl)
@[simp] theorem State.countEntries_base (s : State) (n : Nat) : (s.countEntries n).base = s.base := (rfl)
@[simp] theorem State.countEntries_len (s : State) (n : Nat) : (s.countEntries n).len = s.len := (rfl)
@[simp] theorem State.countEntries_pos (s : State) (n : Nat) : (s.countEntries n).pos = s.pos := (rfl)
@[simp] theorem State.countEntries_limit (s : State) (n : Nat) : (s.countEntries n).limit = s.limit := (rfl)
@[simp] theorem State.countEntries_devid (s : State) (n : Nat) : (s.countEntries n).devid = s.devid := (rfl)
@[simp] theorem State.countEntries_blkid (s : State) (n : Nat) : (s.countEntries n).blkid = s.blkid := (rfl)
@[simp] theorem State.countEntries_hlen (s : State) (n : Nat) : (s.countEntries n).hlen = s.hlen := (rfl)
@[simp] theorem State.countEntries_rdcrc (s : State) (n : Nat) : (s.countEntries n).rdcrc = s.rdcrc := (rfl)
@[simp] theorem State.countEntries_crc (s : State) (n : Nat) : (s.countEntries n).crc = s.crc := (rfl)
@[simp] theorem State.countEntries_ecnt (s : State) (n : Nat) : (s.countEntries n).ecnt = entryCount n s.ecnt := (rfl)
@[simp] theorem State.countEntries_status (s : State) (n : Nat) : (s.countEntries n).status = s.status := (rfl)
@[simp] theorem State.countEntries_esticky (s : State) (n : Nat) : (s.countEntries n).esticky = s.esticky := (rfl)
@[simp] theorem State.countEntries_frstate (s : State) (n : Nat) : (s.countEntries n).frstate = s.frstate := (rfl)
@[simp] theorem State.countEntries_frmode (s : State) (n : Nat) : (s.countEntries n).frmode = s.frmode := (rfl)
@[simp] theorem State.countEntries_seen (s : State) (n : Nat) : (s.countEntries n).seen = s.seen := (rfl)
@[simp] theorem State.countEntries_buf (s : State) (n : Nat) : (s.countEntries n).buf = s.buf := (rfl)
@[simp] theorem State.countEntries_params (s : State) (n : Nat) : (s.countEntries n).params = s.params := (rfl)
@[simp] theorem State.countEntries_resets (s : State) (n : Nat) : (s.countEntries n).resets = s.resets := (rfl)
@[simp] theorem State.countEntries_pending (s : State) (n : Nat) : (s.countEntries n).pending = s.pending := (rfl)
@[simp] theorem State.countEntries_reply (s : State) (n : Nat) : (s.countEntries n).reply = s.reply := (rfl)
@[simp] theorem State.countEntries_bufBytes (s : State) (n : Nat) : (s.countEntries n).bufBytes = s.bufBytes := (rfl)
@[simp] theorem State.countEntries_unlisted (s : State) (n : Nat) : (s.countEntries n).unlisted = s.unlisted := (rfl)
@[simp] theorem State.countEntries_bufByte (s : State) (n : Nat) : (s.countEntries n).bufByte = s.bufByte := (rfl)
@[simp] theorem State.countEntries_memRead (s : State) (n : Nat) : (s.countEntries n).memRead = s.memRead := (rfl)

/-- ECNT of a count that fits, and of one that does not. -/
theorem entryCount_of_lt (n : Nat) (old : BitVec 24) (h : n < 2 ^ 24) : entryCount n old = BitVec.ofNat 24 n := if_pos h

theorem entryCount_of_not_lt (n : Nat) (old : BitVec 24) (h : ¬ n < 2 ^ 24) :
    entryCount n old = Config.ecntUnfit n old := if_neg h

@[simp] theorem State.afterReset_value (s : State) : s.afterReset.value = State.reset.value := (rfl)
@[simp] theorem State.afterReset_start (s : State) : s.afterReset.start = State.reset.start := (rfl)
@[simp] theorem State.afterReset_endBit (s : State) : s.afterReset.endBit = State.reset.endBit := (rfl)
@[simp] theorem State.afterReset_base (s : State) : s.afterReset.base = State.reset.base := (rfl)
@[simp] theorem State.afterReset_len (s : State) : s.afterReset.len = State.reset.len := (rfl)
@[simp] theorem State.afterReset_pos (s : State) : s.afterReset.pos = State.reset.pos := (rfl)
@[simp] theorem State.afterReset_limit (s : State) : s.afterReset.limit = State.reset.limit := (rfl)
@[simp] theorem State.afterReset_devid (s : State) : s.afterReset.devid = State.reset.devid := (rfl)
@[simp] theorem State.afterReset_blkid (s : State) : s.afterReset.blkid = State.reset.blkid := (rfl)
@[simp] theorem State.afterReset_hlen (s : State) : s.afterReset.hlen = State.reset.hlen := (rfl)
@[simp] theorem State.afterReset_rdcrc (s : State) : s.afterReset.rdcrc = State.reset.rdcrc := (rfl)
@[simp] theorem State.afterReset_crc (s : State) : s.afterReset.crc = State.reset.crc := (rfl)
@[simp] theorem State.afterReset_ecnt (s : State) : s.afterReset.ecnt = State.reset.ecnt := (rfl)
@[simp] theorem State.afterReset_status (s : State) : s.afterReset.status = State.reset.status := (rfl)
@[simp] theorem State.afterReset_esticky (s : State) : s.afterReset.esticky = State.reset.esticky := (rfl)
@[simp] theorem State.afterReset_frstate (s : State) : s.afterReset.frstate = State.reset.frstate := (rfl)
@[simp] theorem State.afterReset_frmode (s : State) : s.afterReset.frmode = State.reset.frmode := (rfl)
@[simp] theorem State.afterReset_seen (s : State) : s.afterReset.seen = State.reset.seen := (rfl)
@[simp] theorem State.afterReset_buf (s : State) : s.afterReset.buf = State.reset.buf := (rfl)
@[simp] theorem State.afterReset_params (s : State) : s.afterReset.params = s.params := (rfl)
@[simp] theorem State.afterReset_resets (s : State) : s.afterReset.resets = s.resets + 1 := (rfl)
@[simp] theorem State.afterReset_pending (s : State) : s.afterReset.pending = s.pending := (rfl)
@[simp] theorem State.afterReset_reply (s : State) : s.afterReset.reply = State.reset.reply := (rfl)

end Sys2Proof.Machine
end

