-- ==== Sys2Proof/Laws/Memory.lean ====
section
/-! SUPPORT. Reading after writing BUF, and that every memory operation keeps the canonical form. -/

namespace Sys2Proof.Machine

/-! ### One byte -/

theorem Memory.byteAt?_putByte (m : Memory) (a b : Nat) (x : Byte) :
    (m.putByte a x).byteAt? b = if b = a then some x else m.byteAt? b := by
  induction m with
  | nil => simp [Memory.putByte, Memory.byteAt?, eq_comm]
  | cons c rest ih =>
    obtain ⟨k, y⟩ := c
    simp only [Memory.putByte]
    split
    · simp only [Memory.byteAt?, eq_comm (a := b)]
    · split
      · subst k
        simp only [Memory.byteAt?, eq_comm (a := b)]
        split <;> rfl
      · simp only [Memory.byteAt?, ih]
        by_cases h : k = b
        · subst k; simp [*, eq_comm]
        · simp [h]

theorem Memory.byteAt_putByte (m : Memory) (free : Nat → Byte) (a b : Nat) (x : Byte) :
    (m.putByte a x).byteAt free b = if b = a then x else m.byteAt free b := by
  simp only [Memory.byteAt, Memory.byteAt?_putByte]
  split <;> rfl

@[simp] theorem Memory.byteAt_putByte_same (m : Memory) (free : Nat → Byte) (a : Nat) (x : Byte) :
    (m.putByte a x).byteAt free a = x := by simp [Memory.byteAt_putByte]

theorem Memory.byteAt_putByte_other (m : Memory) (free : Nat → Byte) (a b : Nat) (x : Byte) (h : b ≠ a) :
    (m.putByte a x).byteAt free b = m.byteAt free b := by simp [Memory.byteAt_putByte, h]

/-- Every address `putByte` lists is `a` or was listed. -/
theorem Memory.mem_putByte (m : Memory) (a : Nat) (x : Byte) (c : Host.Cell) (h : c ∈ m.putByte a x) :
    c.1 = a ∨ c ∈ m := by
  induction m with
  | nil => simp_all [Memory.putByte]
  | cons d rest ih =>
    obtain ⟨k, y⟩ := d
    simp only [Memory.putByte] at h
    split at h
    · simp at h ⊢; rcases h with rfl | h <;> simp [*]
    · split at h
      · simp at h ⊢; rcases h with rfl | h <;> simp [*]
      · simp at h ⊢
        rcases h with h | h
        · simp [h]
        · rcases ih h with h | h <;> simp [h]

theorem Memory.putByte_wf (m : Memory) (a : Nat) (x : Byte) (h : m.wf) : (m.putByte a x).wf := by
  induction m with
  | nil => simp [Memory.putByte, Memory.wf]
  | cons d rest ih =>
    obtain ⟨k, y⟩ := d
    obtain ⟨hk, hrest⟩ := List.pairwise_cons.1 h
    simp only [Memory.putByte]
    split
    · rename_i hlt
      refine List.pairwise_cons.2 ⟨?_, h⟩
      intro c hc
      rcases List.mem_cons.1 hc with rfl | hc
      · exact hlt
      · exact Nat.lt_trans hlt (hk c hc)
    · split
      · subst k; exact List.pairwise_cons.2 ⟨hk, hrest⟩
      · rename_i h1 h2
        refine List.pairwise_cons.2 ⟨?_, ih hrest⟩
        intro c hc
        rcases Memory.mem_putByte rest a x c hc with h | h
        · simp only [h]; omega
        · exact hk c h

theorem Memory.byteAt?_eq_none_of_lt (m : Memory) (a : Nat) (h : ∀ c ∈ m, a < c.1) : m.byteAt? a = none := by
  induction m with
  | nil => rfl
  | cons d rest ih =>
    have hd := h d (by simp)
    rw [show d = (d.1, d.2) from rfl, Memory.byteAt?, if_neg (by omega)]
    exact ih (fun c hc => h c (by simp [hc]))

/-- Equal memories are equal data: two canonical lists with the same byte listed at every address are one list. -/
theorem Memory.ext_of_wf (m m' : Memory) (h : m.wf) (h' : m'.wf) (hb : ∀ a, m.byteAt? a = m'.byteAt? a) : m = m' := by
  induction m generalizing m' with
  | nil =>
    cases m' with
    | nil => rfl
    | cons d _ => have := hb d.1; simp [Memory.byteAt?] at this
  | cons d rest ih =>
    obtain ⟨hd, hrest⟩ := List.pairwise_cons.1 h
    cases m' with
    | nil => have := hb d.1; simp [Memory.byteAt?] at this
    | cons d' rest' =>
      obtain ⟨hd', hrest'⟩ := List.pairwise_cons.1 h'
      have key : d.1 = d'.1 := by
        rcases Nat.lt_trichotomy d.1 d'.1 with hlt | heq | hlt
        · have h1 := hb d.1
          rw [Memory.byteAt?_eq_none_of_lt (d' :: rest') d.1 (by
            intro c hc; rcases List.mem_cons.1 hc with rfl | hc
            · exact hlt
            · exact Nat.lt_trans hlt (hd' c hc))] at h1
          simp [Memory.byteAt?] at h1
        · exact heq
        · have h1 := hb d'.1
          rw [Memory.byteAt?_eq_none_of_lt (d :: rest) d'.1 (by
            intro c hc; rcases List.mem_cons.1 hc with rfl | hc
            · exact hlt
            · exact Nat.lt_trans hlt (hd c hc))] at h1
          simp [Memory.byteAt?] at h1
      have hval := hb d.1
      obtain ⟨k, y⟩ := d
      obtain ⟨k', y'⟩ := d'
      obtain rfl : k = k' := key
      simp [Memory.byteAt?] at hval
      subst hval
      congr 1
      refine ih rest' hrest hrest' (fun a => ?_)
      by_cases ha : k = a
      · subst ha
        rw [Memory.byteAt?_eq_none_of_lt rest k hd, Memory.byteAt?_eq_none_of_lt rest' k hd']
      · have := hb a
        simpa [Memory.byteAt?, ha] using this

/-! ### A byte string -/

theorem Memory.byteAt_putBytes (m : Memory) (free : Nat → Byte) (a b : Nat) (bs : List Byte) :
    (m.putBytes a bs).byteAt free b =
      if a ≤ b ∧ b < a + bs.length then bs.getD (b - a) 0 else m.byteAt free b := by
  induction bs generalizing m a with
  | nil => simp [Memory.putBytes]
  | cons x rest ih =>
    rw [Memory.putBytes, ih, Memory.byteAt_putByte]
    by_cases hab : b = a
    · subst hab; simp
    · by_cases h1 : a + 1 ≤ b ∧ b < a + 1 + rest.length
      · rw [if_pos h1, if_pos (by simp; omega), show b - a = (b - (a + 1)) + 1 by omega]
        simp
      · rw [if_neg h1, if_neg hab, if_neg (by simp; omega)]

theorem Memory.putBytes_wf (m : Memory) (a : Nat) (bs : List Byte) (h : m.wf) : (m.putBytes a bs).wf := by
  induction bs generalizing m a with
  | nil => exact h
  | cons x rest ih => exact ih _ _ (Memory.putByte_wf m a x h)

theorem Memory.mem_putBytes (m : Memory) (a : Nat) (bs : List Byte) (c : Host.Cell) (h : c ∈ m.putBytes a bs) :
    (a ≤ c.1 ∧ c.1 < a + bs.length) ∨ c ∈ m := by
  induction bs generalizing m a with
  | nil => exact Or.inr h
  | cons x rest ih =>
    rcases ih _ _ h with h | h
    · left; simp; omega
    · rcases Memory.mem_putByte _ _ _ _ h with h | h
      · left; simp; omega
      · exact Or.inr h

/-! ### A packed field -/

/-- What holds of a memory and is kept by every one-byte write a field makes holds after `packField`. -/
theorem Memory.packField_induction {P : Memory → Prop} (m : Memory) (free : Nat → Byte) (base n v start endBit : Nat)
    (q : Quirks) (h : P m)
    (hstep : ∀ t box x, P t → box ∈ boxes start endBit → P (t.putByte (base + physAddr box n q) x)) :
    P (m.packField free base n v start endBit q) := by
  unfold Memory.packField
  generalize hb : boxes start endBit = bs at hstep
  clear hb
  induction bs generalizing m with
  | nil => exact h
  | cons b rest ih =>
    exact ih _ (hstep _ _ _ h (by simp)) (fun t box x ht hx => hstep t box x ht (by simp [hx]))

theorem Memory.packField_wf (m : Memory) (free : Nat → Byte) (base n v start endBit : Nat) (q : Quirks) (h : m.wf) :
    (m.packField free base n v start endBit q).wf :=
  Memory.packField_induction (P := Memory.wf) m free base n v start endBit q h
    (fun t _ x ht _ => Memory.putByte_wf t _ x ht)

theorem Memory.mem_packField (m : Memory) (free : Nat → Byte) (base n v start endBit : Nat) (q : Quirks)
    (c : Host.Cell) (h : c ∈ m.packField free base n v start endBit q) :
    (∃ box ∈ boxes start endBit, c.1 = base + physAddr box n q) ∨ c ∈ m := by
  refine Memory.packField_induction
    (P := fun t => ∀ c ∈ t, (∃ box ∈ boxes start endBit, c.1 = base + physAddr box n q) ∨ c ∈ m)
    m free base n v start endBit q (fun c hc => Or.inr hc) ?_ c h
  intro t box x ht hbox c hc
  rcases Memory.mem_putByte _ _ _ _ hc with hc | hc
  · exact Or.inl ⟨box, hbox, hc⟩
  · exact ht c hc

/-! ### BUF through the state -/

theorem State.bufByte_putByte (s : State) (a b : Nat) (x : Byte) :
    (s.putByte a x).bufByte b = if b = a then x else s.bufByte b :=
  Memory.byteAt_putByte s.buf s.unlisted a b x

theorem State.bufByte_memWrite (s : State) (a b : Nat) (bs : List Byte) :
    (s.memWrite a bs).bufByte b = if a ≤ b ∧ b < a + bs.length then bs.getD (b - a) 0 else s.bufByte b :=
  Memory.byteAt_putBytes s.buf s.unlisted a b bs

@[simp] theorem State.memRead_length (s : State) (a n : Nat) : (s.memRead a n).length = n := by
  simp [State.memRead]

@[simp] theorem State.memRead_getElem (s : State) (a n i : Nat) (h : i < (s.memRead a n).length) :
    (s.memRead a n)[i] = s.bufByte (a + i) := by
  simp [State.memRead]

theorem State.memRead_getD (s : State) (a n i : Nat) (d : Byte) (h : i < n) :
    (s.memRead a n).getD i d = s.bufByte (a + i) := by
  simp [State.memRead, h]

/-- Two spans with the same bytes read the same. -/
theorem State.memRead_congr (s t : State) (a b n : Nat) (h : ∀ i, i < n → s.bufByte (a + i) = t.bufByte (b + i)) :
    s.memRead a n = t.memRead b n := by
  refine List.ext_getElem (by simp) (fun i h1 _ => ?_)
  simp at h1
  simp [h i h1]

theorem State.memRead_add (s : State) (a m n : Nat) :
    s.memRead a (m + n) = s.memRead a m ++ s.memRead (a + m) n := by
  simp [State.memRead, List.range_add, Nat.add_assoc, Function.comp_def]

theorem State.memRead_drop (s : State) (a n k : Nat) : (s.memRead a n).drop k = s.memRead (a + k) (n - k) := by
  refine List.ext_getElem (by simp) (fun i h1 _ => ?_)
  simp [Nat.add_assoc]

theorem State.memRead_take (s : State) (a n k : Nat) (h : k ≤ n) : (s.memRead a n).take k = s.memRead a k := by
  refine List.ext_getElem (by simp [h]) (fun i h1 _ => ?_)
  simp

/-- Reading the span just written gives what was written. -/
theorem State.memRead_memWrite_same (s : State) (a : Nat) (bs : List Byte) (n : Nat) (h : n = bs.length) :
    (s.memWrite a bs).memRead a n = bs := by
  subst h
  refine List.ext_getElem (by simp) (fun i h1 h2 => ?_)
  simp only [State.memRead_getElem, State.bufByte_memWrite]
  rw [if_pos (by omega), Nat.add_sub_cancel_left]
  simp [h2]

/-- Writing one span leaves a span apart from it as it was. -/
theorem State.memRead_memWrite_disjoint (s : State) (a b n : Nat) (bs : List Byte)
    (h : b + n ≤ a ∨ a + bs.length ≤ b) : (s.memWrite a bs).memRead b n = s.memRead b n := by
  refine State.memRead_congr _ _ _ _ _ (fun i hi => ?_)
  rw [State.bufByte_memWrite, if_neg (by omega)]

end Sys2Proof.Machine
end

