-- ==== Sys2Proof/Laws/Ops.lean ====
section
/-! SUPPORT. What each shared operation and each command can do, said once: if it answers a next state, which one. -/

namespace Sys2Proof.Machine

/-! ### Shared operations -/

/-- `within` answers what it is given, the span lying in BUF, or faults. -/
theorem State.within_eq_next (s t : State) (a n : Nat) (r : Result) :
    s.within a n r = .next t ↔ a + n ≤ s.bufBytes ∧ r = .next t := by
  unfold State.within; split <;> simp [*]

theorem State.within_of_le (s : State) (a n : Nat) (r : Result) (h : a + n ≤ s.bufBytes) : s.within a n r = r :=
  if_pos h

/-- A PUT command's element: stored and finished in mode PACK, the span lying in BUF; only finished otherwise. -/
theorem State.emit_eq_next (s t : State) (n : Nat) (write finish : State → State) :
    s.emit n write finish = .next t ↔
      (s.frmode = FrMode.pack ∧ s.pos.toNat + n ≤ s.bufBytes ∧ t = finish (write s)) ∨
      (s.frmode ≠ FrMode.pack ∧ t = finish s) := by
  unfold State.emit
  by_cases h : s.frmode = FrMode.pack
  · rw [if_pos h, State.within_eq_next]
    simp only [h, true_and, ne_eq, not_true_eq_false, false_and, or_false, Host.Outcome.next.injEq, eq_comm]
  · rw [if_neg h]
    simp only [h, false_and, ne_eq, not_false_eq_true, true_and, false_or, Host.Outcome.next.injEq, eq_comm]

/-- What reports a code reports it as `raise` does. -/
theorem State.raise_eq_reported (s : State) (k : ErrorKind) : s.raise k = reported s k.code := rfl

theorem State.fail_eq_failedWith (s : State) (k : ErrorKind) : s.fail k = failedWith s k.code := rfl

theorem State.putReady_iff (s : State) (st : BitVec 3) :
    s.putReady st = true ↔ s.frmode ≠ FrMode.unpack ∧ s.frstate = st := by
  simp [State.putReady]

theorem State.getReady_iff (s : State) (st : BitVec 3) :
    s.getReady st = true ↔ s.frmode = FrMode.unpack ∧ s.frstate = st := by
  simp [State.getReady]

/-- A host write changes the one register it names (10_state.md R36, R31). -/
theorem State.writeReg_readReg_other (s : State) (r x : Reg) (v : Nat) (h : x ≠ r) :
    (s.writeReg r v).readReg x = s.readReg x := by
  cases r <;> cases x <;> first | rfl | exact absurd rfl h

theorem State.writeReg_readReg_same (s : State) (r : Reg) (v : Nat) (h : r.access = .readWrite) :
    (s.writeReg r v).readReg r = v % 2 ^ r.width := by
  cases r <;> first | exact BitVec.toNat_ofNat _ _ | simp [Reg.access] at h

/-! ### PACK, UNPACK, CRC32 -/

/-- The tests of PACK and UNPACK pass exactly when `Check` does and the span lies in BUF (40_packing.md R128). -/
theorem fieldError_eq_none_iff (op : Direction) (q : Quirks) (s : State) :
    fieldError op q s = none ↔
      s.fieldLegal q ∧ (op = .pack → s.valueFits) := by
  simp only [fieldError, Option.or_eq_none_iff, check_eq_none_iff, State.fieldLegal, State.valueFits, State.fieldWidth]
  constructor
  · rintro ⟨⟨h1, h2, h3, h4, h5⟩, h6⟩
    simp at h6
    exact ⟨⟨h1, h2, h4, h5, h6⟩, h3⟩
  · rintro ⟨⟨h1, h2, h4, h5, h6⟩, h3⟩
    exact ⟨⟨h1, h2, h3, h4, h5⟩, by simp [h6]⟩

theorem execPack_eq_next (q : Quirks) (s t : State) (h : execPack q s = .next t) :
    (fieldError .pack q s = none ∧ t = (s.packField q).ok) ∨ ∃ k, fieldError .pack q s = some k ∧ t = s.raise k := by
  unfold execPack at h
  split at h
  · rename_i k hk
    exact Or.inr ⟨k, hk, (Host.Outcome.next.inj h).symm⟩
  · rename_i hk
    exact Or.inl ⟨hk, (Host.Outcome.next.inj h).symm⟩

theorem execUnpack_eq_next (q : Quirks) (s t : State) (h : execUnpack q s = .next t) :
    (fieldError .unpack q s = none ∧ t = (s.setValue (BitVec.ofNat 64 (s.unpackField q))).ok) ∨
    ∃ k, fieldError .unpack q s = some k ∧ t = s.raise k := by
  unfold execUnpack at h
  split at h
  · rename_i k hk
    exact Or.inr ⟨k, hk, (Host.Outcome.next.inj h).symm⟩
  · rename_i hk
    exact Or.inl ⟨hk, (Host.Outcome.next.inj h).symm⟩

/-- `Check` and the span test name caller errors only (60_exceptions.md R230). -/
theorem fieldError_kind (op : Direction) (q : Quirks) (s : State) (k : ErrorKind) (h : fieldError op q s = some k) :
    k = .invalidRange ∨ k = .rangeExceeded ∨ k = .badLength ∨ k = .bufferBounds := by
  simp only [fieldError, check] at h
  split_ifs at h <;> simp_all

theorem execCrc32_eq_next (s t : State) (h : execCrc32 s = .next t) :
    t = s.raise .badLength ∨ t = s.raise .bufferBounds ∨
      (s.len.toNat % 4 = 0 ∧ s.base.toNat + s.len.toNat ≤ s.bufBytes ∧
        t = (s.setCrc (crcOf (s.memRead s.base.toNat s.len.toNat))).ok) := by
  unfold execCrc32 at h
  simp only at h
  split_ifs at h with h1 h2 <;> simp at h
  · exact Or.inl h.symm
  · exact Or.inr (Or.inl h.symm)
  · exact Or.inr (Or.inr ⟨by omega, by omega, h.symm⟩)

/-! ### The framer -/

theorem execFrBegin_eq_next (m : BitVec 2) (s t : State) (h : execFrBegin m s = .next t) :
    ((m = FrMode.pack ∨ m = FrMode.unpack) ∧ s.base.toNat + s.len.toNat ≤ s.bufBytes ∧
        t = (s.beginStream m (s.base.toNat + s.len.toNat)).ok) ∨
      (m = FrMode.length ∧ t = (s.beginStream m (2 ^ 32 - 1)).ok) ∨
      t = s.raise .bufferBounds ∨ t = s.raise .illegalCommand := by
  unfold execFrBegin at h
  split_ifs at h with h1 h2 h3 <;> simp at h
  · exact Or.inr (Or.inr (Or.inl h.symm))
  · exact Or.inl ⟨h1, by omega, h.symm⟩
  · exact Or.inr (Or.inl ⟨h3, h.symm⟩)
  · exact Or.inr (Or.inr (Or.inr h.symm))

theorem execPutDevid_eq_next (s t : State) (h : execPutDevid s = .next t) :
    t = s.raise .badSequence ∨ t = s.raise .bufferBounds ∨
      (s.canEmit FrState.devid 4 ∧
        ((s.frmode = FrMode.pack ∧ s.pos.toNat + 4 ≤ s.bufBytes ∧
          t = ((s.memWrite s.pos.toNat (wordBytes s.devid)).advance (s.pos.toNat + 4) FrState.hdr).ok) ∨
         (s.frmode ≠ FrMode.pack ∧ t = (s.advance (s.pos.toNat + 4) FrState.hdr).ok))) := by
  unfold execPutDevid at h
  simp only at h
  split_ifs at h with h1 h2
  · simp at h; exact Or.inl h.symm
  · simp at h; exact Or.inr (Or.inl h.symm)
  · rw [State.emit_eq_next] at h
    simp only [Bool.not_eq_true', Bool.not_eq_false, State.putReady_iff] at h1
    exact Or.inr (Or.inr ⟨⟨h1.1, h1.2, by omega⟩, h⟩)

theorem execPutHdr_eq_next (s t : State) (h : execPutHdr s = .next t) :
    t = s.raise .badSequence ∨ t = s.raise .badOperand ∨ t = s.raise .bufferBounds ∨
      (s.hlen ≠ 0 ∧ s.canEmit FrState.hdr (12 + s.bodyLen) ∧
        ((s.frmode = FrMode.pack ∧ s.pos.toNat + (12 + s.bodyLen) ≤ s.bufBytes ∧
          t = (State.advance
            (((s.memWrite s.pos.toNat (hdrBytes s.blkid s.hlen)).memWrite (s.pos.toNat + 12)
                (List.replicate s.bodyLen 0)).setCrc (crcOf ((hdrBytes s.blkid s.hlen).take 8)))
            (s.pos.toNat + 12) FrState.body).ok) ∨
         (s.frmode ≠ FrMode.pack ∧ t = (s.advance (s.pos.toNat + 12) FrState.body).ok))) := by
  unfold execPutHdr at h
  simp only at h
  split_ifs at h with h1 h2 h3
  · simp at h; exact Or.inl h.symm
  · simp at h; exact Or.inr (Or.inl h.symm)
  · simp at h; exact Or.inr (Or.inr (Or.inl h.symm))
  · rw [State.emit_eq_next] at h
    simp only [Bool.not_eq_true', Bool.not_eq_false, State.putReady_iff] at h1
    exact Or.inr (Or.inr (Or.inr ⟨h2, ⟨h1.1, h1.2, by unfold State.bodyLen; omega⟩, h⟩))

theorem execPutBodycrc_eq_next (s t : State) (h : execPutBodycrc s = .next t) :
    t = s.raise .badSequence ∨ t = s.raise .badOperand ∨ t = s.raise .bufferBounds ∨
      (s.hlen ≠ 0 ∧ s.canEmit FrState.body (s.bodyLen + 4) ∧
        ((s.frmode = FrMode.pack ∧ s.pos.toNat + (s.bodyLen + 4) ≤ s.bufBytes ∧
          t = (State.advance
            ((s.memWrite (s.pos.toNat + s.bodyLen) (wordBytes s.bodyCrc)).setCrc s.bodyCrc)
            (s.pos.toNat + s.bodyLen + 4) FrState.hdr).ok) ∨
         (s.frmode ≠ FrMode.pack ∧ t = (s.advance (s.pos.toNat + s.bodyLen + 4) FrState.hdr).ok))) := by
  unfold execPutBodycrc at h
  simp only at h
  split_ifs at h with h1 h2 h3
  · simp at h; exact Or.inl h.symm
  · simp at h; exact Or.inr (Or.inl h.symm)
  · simp at h; exact Or.inr (Or.inr (Or.inl h.symm))
  · rw [State.emit_eq_next] at h
    simp only [Bool.not_eq_true', Bool.not_eq_false, State.putReady_iff] at h1
    exact Or.inr (Or.inr (Or.inr ⟨h2, ⟨h1.1, h1.2, by unfold State.bodyLen; omega⟩, h⟩))

theorem execPutEnd_eq_next (s t : State) (h : execPutEnd s = .next t) :
    t = s.raise .badSequence ∨ t = s.raise .bufferBounds ∨
      (s.canEmit FrState.hdr 12 ∧
        ((s.frmode = FrMode.pack ∧ s.pos.toNat + 12 ≤ s.bufBytes ∧
          t = ((s.memWrite s.pos.toNat (sentinelBytes s.params)).advance (s.pos.toNat + 12) FrState.done).ok) ∨
         (s.frmode ≠ FrMode.pack ∧ t = (s.advance (s.pos.toNat + 12) FrState.done).ok))) := by
  unfold execPutEnd at h
  simp only at h
  split_ifs at h with h1 h2
  · simp at h; exact Or.inl h.symm
  · simp at h; exact Or.inr (Or.inl h.symm)
  · rw [State.emit_eq_next] at h
    simp only [Bool.not_eq_true', Bool.not_eq_false, State.putReady_iff] at h1
    exact Or.inr (Or.inr ⟨⟨h1.1, h1.2, by omega⟩, h⟩)

theorem execGetDevid_eq_next (s t : State) (h : execGetDevid s = .next t) :
    t = s.raise .badSequence ∨
      (s.frmode = FrMode.unpack ∧ s.frstate = FrState.devid ∧ t = s.fail .unexpectedEndOfBuffer) ∨
      (s.canParse FrState.devid 4 ∧
        ((t = State.fail (s.setDevid (wordOf (s.memRead s.pos.toNat 4))) .invalidDeviceId ∧
            wordOf (s.memRead s.pos.toNat 4) ∉ s.params.deviceIds) ∨
         (t = (State.advance (s.setDevid (wordOf (s.memRead s.pos.toNat 4))) (s.pos.toNat + 4) FrState.hdr).ok ∧
            wordOf (s.memRead s.pos.toNat 4) ∈ s.params.deviceIds))) := by
  unfold execGetDevid at h
  dsimp only at h
  by_cases h1 : s.getReady FrState.devid
  · rw [h1, Bool.not_true, if_neg Bool.false_ne_true] at h
    rw [State.getReady_iff] at h1
    by_cases h2 : s.limit.toNat < s.pos.toNat + 4
    · rw [if_pos h2] at h
      exact Or.inr (Or.inl ⟨h1.1, h1.2, (Host.Outcome.next.inj h).symm⟩)
    · rw [if_neg h2, State.within_eq_next, State.setDevid_devid, State.setDevid_params] at h
      refine Or.inr (Or.inr ⟨⟨h1.1, h1.2, by omega⟩, ?_⟩)
      by_cases h3 : wordOf (s.memRead s.pos.toNat 4) ∈ s.params.deviceIds
      · rw [if_neg (not_not_intro h3)] at h
        exact Or.inr ⟨(Host.Outcome.next.inj h.2).symm, h3⟩
      · rw [if_pos h3] at h
        exact Or.inl ⟨(Host.Outcome.next.inj h.2).symm, h3⟩
  · rw [Bool.not_eq_true] at h1
    rw [h1, Bool.not_false, if_pos rfl] at h
    exact Or.inl (Host.Outcome.next.inj h).symm

/-- A sentinel is accepted at the end of the stream and fails before it (43_framer_parse.md R190 test 2). -/
theorem State.acceptSentinel_cases (s : State) :
    (s.pos.toNat + 12 ≠ s.limit.toNat ∧ s.acceptSentinel = s.fail .extraBytesAtEndOfBuffer) ∨
    (s.pos.toNat + 12 = s.limit.toNat ∧ s.acceptSentinel = (s.advance (s.pos.toNat + 12) FrState.done).ok) := by
  unfold State.acceptSentinel
  split <;> simp_all

/-- A table header is accepted or fails with one of four kinds (R190 tests 3 to 6). -/
theorem State.acceptHeader_cases (s : State) :
    (∃ k ∈ [ErrorKind.invalidTableHeaderCrc, .unexpectedEndOfBuffer, .tableHeaderUnknown, .tableHeaderDuplicate],
      s.acceptHeader = s.fail k) ∨
    (s.crc = s.rdcrc ∧ s.pos.toNat + 12 + s.hlen.toNat * 4 ≤ s.limit.toNat ∧
      entrySize s.params s.devid s.blkid ≠ none ∧ s.seen.getLsbD s.blkid.toNat = false ∧
      s.acceptHeader =
        (State.advance (s.setSeen (seenWith s.seen s.blkid)) (s.pos.toNat + 12) FrState.body).ok) := by
  unfold State.acceptHeader
  split_ifs with h1 h2 h3 h4
  · exact Or.inl ⟨_, by simp, rfl⟩
  · exact Or.inl ⟨_, by simp, rfl⟩
  · exact Or.inl ⟨_, by simp, rfl⟩
  · exact Or.inl ⟨_, by simp, rfl⟩
  · refine Or.inr ⟨by simpa using h1, by omega, ?_, by simpa using h4, rfl⟩
    simpa [Option.isNone_iff_eq_none] using h3

theorem execGetHdr_eq_next (s t : State) (h : execGetHdr s = .next t) :
    t = s.raise .badSequence ∨
      (s.frmode = FrMode.unpack ∧ s.frstate = FrState.hdr ∧ t = s.fail .unexpectedEndOfBuffer) ∨
      (s.canParse FrState.hdr 12 ∧
        (((s.readHeader s.hdrAtPos).hlen = 0 ∧ t = (s.readHeader s.hdrAtPos).acceptSentinel) ∨
         ((s.readHeader s.hdrAtPos).hlen ≠ 0 ∧
            t = ((s.readHeader s.hdrAtPos).setCrc (crcOf (s.hdrAtPos.take 8))).acceptHeader))) := by
  unfold execGetHdr at h
  simp only at h
  split_ifs at h with h1 h2 h3
  · simp at h; exact Or.inl h.symm
  · simp only [Bool.not_eq_true', Bool.not_eq_false, State.getReady_iff] at h1
    simp at h; exact Or.inr (Or.inl ⟨h1.1, h1.2, h.symm⟩)
  · simp only [Bool.not_eq_true', Bool.not_eq_false, State.getReady_iff] at h1
    rw [State.within_eq_next] at h
    simp at h
    exact Or.inr (Or.inr ⟨⟨h1.1, h1.2, by omega⟩, Or.inl ⟨h3, h.2.symm⟩⟩)
  · simp only [Bool.not_eq_true', Bool.not_eq_false, State.getReady_iff] at h1
    rw [State.within_eq_next] at h
    simp at h
    exact Or.inr (Or.inr ⟨⟨h1.1, h1.2, by omega⟩, Or.inr ⟨h3, h.2.symm⟩⟩)

/-- A body is accepted when its CRC agrees, and fails otherwise (R192 test 3). -/
theorem State.acceptBody_cases (s : State) (n es : Nat) :
    (crcOf (s.memRead s.pos.toNat n) ≠ wordOf (s.memRead (s.pos.toNat + n) 4) ∧
      s.acceptBody n es = State.fail
        (s.setCrcs (crcOf (s.memRead s.pos.toNat n)) (wordOf (s.memRead (s.pos.toNat + n) 4)))
        .dataCrcInvalid) ∨
    (crcOf (s.memRead s.pos.toNat n) = wordOf (s.memRead (s.pos.toNat + n) 4) ∧
      s.acceptBody n es =
        ((State.countEntries
          (s.setCrcs (crcOf (s.memRead s.pos.toNat n)) (wordOf (s.memRead (s.pos.toNat + n) 4)))
          (n / es)).advance (s.pos.toNat + n + 4) FrState.hdr).ok) := by
  unfold State.acceptBody
  simp only
  split_ifs with h <;> simp_all

theorem execGetBody_eq_next (s t : State) (h : execGetBody s = .next t) :
    t = s.raise .badSequence ∨
      (s.frmode = FrMode.unpack ∧ s.frstate = FrState.body ∧
        (t = s.fail .incorrectTableLength ∨ t = s.fail .unexpectedEndOfBuffer)) ∨
      (s.canParse FrState.body (s.bodyLen + 4) ∧
        ∃ es, entrySize s.params s.devid s.blkid = some es ∧ s.bodyLen % es = 0 ∧ t = s.acceptBody s.bodyLen es) := by
  unfold execGetBody at h
  simp only at h
  split at h
  · exact Or.inl (Host.Outcome.next.inj h).symm
  · rename_i h1
    simp only [Bool.not_eq_true', Bool.not_eq_false, State.getReady_iff] at h1
    split at h
    · exact Or.inr (Or.inl ⟨h1.1, h1.2, Or.inl (Host.Outcome.next.inj h).symm⟩)
    · rename_i es hes
      split_ifs at h with h2 h3
      · exact Or.inr (Or.inl ⟨h1.1, h1.2, Or.inl (Host.Outcome.next.inj h).symm⟩)
      · exact Or.inr (Or.inl ⟨h1.1, h1.2, Or.inr (Host.Outcome.next.inj h).symm⟩)
      · rw [State.within_eq_next] at h
        exact Or.inr (Or.inr ⟨⟨h1.1, h1.2, by unfold State.bodyLen; omega⟩, es, hes, by unfold State.bodyLen; omega,
          (Host.Outcome.next.inj h.2).symm⟩)

end Sys2Proof.Machine
end

