-- ==== Sys2Proof/Laws/PerInstr.lean ====
section
/-! SUPPORT. Statements about every command as syntax, one lemma per constructor. -/

/-- The word of a well-formed command lies in its row of the opcode table (30_encoding.md R92). -/
def Sys2Proof.Laws.TableRow.Statement (i : Sys2Proof.Instr) : Prop :=
  i.wellFormed = true → Sys2Proof.encode i &&& Sys2Proof.tableMask i = Sys2Proof.tableMatch i

namespace Sys2Proof.Laws.TableRow

theorem nop : Statement .nop := fun _ => by decide

theorem pack (q : Quirks) : Statement (.pack q) := fun _ => by
  obtain ⟨m, e, l⟩ := q
  cases m <;> cases e <;> cases l <;> decide

theorem unpack (q : Quirks) : Statement (.unpack q) := fun _ => by
  obtain ⟨m, e, l⟩ := q
  cases m <;> cases e <;> cases l <;> decide

theorem crc32 : Statement .crc32 := fun _ => by decide

theorem frBegin (mode : BitVec 2) : Statement (.frBegin mode) := fun _ => by
  revert mode; decide

theorem putDevid : Statement .putDevid := fun _ => by decide

theorem putHdr : Statement .putHdr := fun _ => by decide

theorem putBodycrc : Statement .putBodycrc := fun _ => by decide

theorem putEnd : Statement .putEnd := fun _ => by decide

theorem getDevid : Statement .getDevid := fun _ => by decide

theorem getHdr : Statement .getHdr := fun _ => by decide

theorem getBody : Statement .getBody := fun _ => by decide

end Sys2Proof.Laws.TableRow
end

