-- ==== Sys2Proof/Laws/Stream.lean ====
section
/-! SUPPORT. The lengths and the bytes of the elements of a stream. -/

namespace Sys2Proof.Machine

@[simp] theorem wordBytes_length (w : Word) : (wordBytes w).length = 4 := by simp [wordBytes]

@[simp] theorem hdrPrefix_length (blk : Byte) (len : BitVec 24) : (hdrPrefix blk len).length = 12 := by
  simp [hdrPrefix]

@[simp] theorem hdrBytes_length (blk : Byte) (len : BitVec 24) : (hdrBytes blk len).length = 12 := by simp [hdrBytes]

@[simp] theorem sentinelBytes_length (p : Params) : (sentinelBytes p).length = 12 := by simp [sentinelBytes]

@[simp] theorem slice_length (s : List Byte) (p n : Nat) : (slice s p n).length = min n (s.length - p) := by
  simp [slice]

theorem norm_cons4 (a b c d : Byte) (rest : List Byte) :
    norm (a :: b :: c :: d :: rest) = bytesLsbFirst (wordOf [a, b, c, d]) ++ norm rest := rfl

/-- One byte appended below a bit vector, as numbers. -/
theorem toNat_append_byte (n : Nat) (x : BitVec n) (y : Byte) : (x ++ y).toNat = x.toNat * 2 ^ 8 + y.toNat := by
  rw [BitVec.toNat_append, ← Nat.shiftLeft_add_eq_or_of_lt y.isLt, Nat.shiftLeft_eq]

/-- The word in four bytes has the first on top (41_crc32.md R142). -/
theorem wordOf_four (a b c d : Byte) : wordOf [a, b, c, d] = a ++ b ++ c ++ d := by
  have hb : boxes 31 0 = [3, 2, 1, 0] := by decide
  apply BitVec.eq_of_toNat_eq
  simp only [toNat_append_byte, wordOf, BitVec.toNat_ofNat]
  have e : unpack [a, b, c, d] 31 0 lswOnly = ((a.toNat * 2 ^ 8 + b.toNat) * 2 ^ 8 + c.toNat) * 2 ^ 8 + d.toNat := by
    have ha := a.isLt; have hb' := b.isLt; have hc := c.isLt; have hd := d.isLt
    simp [unpack, unpackFrom, hb, unpackByte, physAddr, lswOnly, boxTop, boxBottom, valueBottom, bitsOf, reflect]
    omega
  rw [e, Nat.mod_eq_of_lt]
  have ha := a.isLt; have hb' := b.isLt; have hc := c.isLt; have hd := d.isLt
  omega

/-- The four bytes are the big-endian number `beNat` reads. -/
theorem wordOf_eq_beNat (s : List Byte) (h : s.length = 4) : wordOf s = BitVec.ofNat 32 (beNat s) := by
  obtain ⟨a, b, c, d, rfl⟩ : ∃ a b c d, s = [a, b, c, d] := by
    match s, h with
    | [a, b, c, d], _ => exact ⟨a, b, c, d, rfl⟩
  rw [wordOf_four]
  apply BitVec.eq_of_toNat_eq
  have ha := a.isLt; have hb' := b.isLt; have hc := c.isLt; have hd := d.isLt
  simp only [toNat_append_byte, BitVec.toNat_ofNat, beNat, List.foldl_cons, List.foldl_nil]
  omega

/-- A word is stored most significant byte first (R145). -/
theorem wordBytes_eq_bigEndian4 (w : Word) : wordBytes w = bigEndian4 w := by
  have hb : boxes 31 0 = [3, 2, 1, 0] := by decide
  simp [wordBytes, pack, hb, physAddr, lswOnly, packByte, boxTop, boxBottom, valueBottom, valueTop, bitsOf, reflect,
    bigEndian4, List.replicate]
  refine ⟨?_, ?_, ?_, ?_⟩ <;> apply BitVec.eq_of_toNat_eq <;> simp [Nat.shiftRight_eq_div_pow]

end Sys2Proof.Machine
end

