-- ==== Sys2Proof/Tests/Slice0.lean ====
section
/-! SUPPORT. The model's own tests: words written out from the encoding, single steps on small states with the results that
the spec's vectors V1 to V37 give, and a witness for the hypotheses of every statement that has some. -/

namespace Sys2Proof.Tests

open Sys2Proof Sys2Proof.Machine

/-! ### Small states -/

/-- The device of the spec's stream vectors (95_test_vectors.md). -/
def device : Word := 0x9E00030E

/-- A block of 256 bytes that knows one device, whose blocks 5, 7 and 9 have entries of 8, 4 and 8 bytes. -/
def testParams : Params where
  bufExtra := 252
  deviceIds := [device]
  entrySizes := [⟨device, 5, 8⟩, ⟨device, 7, 4⟩, ⟨device, 9, 8⟩]
  sentinelCrc := 0xDEADBEEF
  sentinelBlkid := 0x00

/-- After reset, with those parameters. -/
def start : State := { State.reset with params := testParams }

/-- A packed buffer of `n` bytes at `b`, the field `[hi:lo]` and VALUE `v`. -/
def field (b n hi lo : Nat) (v : BitVec 64) : State :=
  { start with base := BitVec.ofNat 32 b, len := BitVec.ofNat 32 n, start := BitVec.ofNat 32 hi,
               endBit := BitVec.ofNat 32 lo, value := v }

/-- The framer in mode `m` and state `st`, between POS and LIMIT. -/
def framer (m : BitVec 2) (st : BitVec 3) (p lim : Nat) : State :=
  { start with frmode := m, frstate := st, pos := BitVec.ofNat 32 p, limit := BitVec.ofNat 32 lim }

/-- The framer with a table of `n` words of block `blk` announced. -/
def table (m : BitVec 2) (st : BitVec 3) (p lim : Nat) (blk : Byte) (n : Nat) : State :=
  { framer m st p lim with devid := device, blkid := blk, hlen := BitVec.ofNat 24 n }

/-- The next state, if there is one. -/
def after (o : Result) : Option State :=
  match o with
  | .next t => some t
  | .fault _ => none
  | .refused _ => none

/-- There is a next state, and `p` holds of it. -/
def nextHas (o : Result) (p : State → Bool) : Bool := ((after o).map p).getD false

/-- `State.Inv` as a test. -/
def invCheck (s : State) : Bool :=
  decide (s.pos.toNat ≤ s.limit.toNat) && decide (s.frstate.toNat ≤ 5) && decide (s.frmode.toNat ≤ 2) &&
  (s.status == statusOk || (ErrorKind.all.map statusOf).contains s.status) &&
  decide (s.esticky &&& ~~~stickyMask = 0) &&
  decide (s.frmode ≠ FrMode.length → s.frstate ≠ FrState.idle → s.limit.toNat ≤ s.bufBytes) &&
  decide (s.frstate = FrState.failed → s.frmode = FrMode.unpack) &&
  decide s.buf.wf && s.buf.all (fun c => decide (c.1 < s.bufBytes))

theorem inv_of_check (s : State) (h : invCheck s = true) : s.Inv := by
  simp only [invCheck, Bool.and_eq_true, Bool.or_eq_true, decide_eq_true_eq, beq_iff_eq, List.contains_eq_mem,
    List.all_eq_true] at h
  obtain ⟨⟨⟨⟨⟨⟨⟨⟨h1, h2⟩, h3⟩, h4⟩, h5⟩, h6⟩, h7⟩, h8⟩, h9⟩ := h
  refine ⟨h1, h2, h3, h4.imp_right fun h => ?_, h5, h6, h7, h8, h9⟩
  obtain ⟨k, -, hk⟩ := List.mem_map.1 h
  exact ⟨k, hk.symm⟩

/-! ### WellFormed and Decode -/

theorem test_frBegin_mode3_refused : (Instr.frBegin 3).wellFormed = false := by decide
theorem test_frBegin_mode2_accepted : (Instr.frBegin 2).wellFormed = true := by decide

/- Bit for bit from 30_encoding.md R85, R90, R92, R93: RSV(18) MODE(2) Q3(1) Q(3) OPC(8). -/
theorem test_decode_nop : decode 0b00000000000000000000000000000000 = .ok .nop := by rfl
theorem test_decode_pack : decode 0b00000000000000000000000100000010 = .ok (.pack ⟨true, false, false⟩) := by rfl
theorem test_decode_unpack : decode 0b00000000000000000000011000000011 = .ok (.unpack ⟨false, true, true⟩) := by rfl
theorem test_decode_crc32 : decode 0b00000000000000000000000000000100 = .ok .crc32 := by rfl
theorem test_decode_frBegin : decode 0b00000000000000000001000000010000 = .ok (.frBegin 1) := by rfl
theorem test_decode_putDevid : decode 0b00000000000000000000000000010001 = .ok .putDevid := by rfl
theorem test_decode_putHdr : decode 0b00000000000000000000000000010010 = .ok .putHdr := by rfl
theorem test_decode_putBodycrc : decode 0b00000000000000000000000000010011 = .ok .putBodycrc := by rfl
theorem test_decode_putEnd : decode 0b00000000000000000000000000010100 = .ok .putEnd := by rfl
theorem test_decode_getDevid : decode 0b00000000000000000000000000011001 = .ok .getDevid := by rfl
theorem test_decode_getHdr : decode 0b00000000000000000000000000011010 = .ok .getHdr := by rfl
theorem test_decode_getBody : decode 0b00000000000000000000000000011011 = .ok .getBody := by rfl

/-- The illegal words of vector V24, one for each clause of R94, each refused by name. -/
theorem test_decode_illegal :
    decode 0x00004000 = .error .reservedBits ∧ decode 0x80000002 = .error .reservedBits ∧
    decode 0x00000803 = .error .fourthQuirk ∧ decode 0x00000015 = .error .unlistedOpcode ∧
    decode 0x00000104 = .error .quirksNotAllowed ∧ decode 0x00001011 = .error .modeNotAllowed ∧
    decode 0x00003010 = .error .reservedMode := ⟨rfl, rfl, rfl, rfl, rfl, rfl, rfl⟩

theorem test_decodeTableWord : decodeTableWord 32 0x402 = some (.pack ⟨false, false, true⟩) := by decide
theorem test_decodeTableWord_refuses : decodeTableWord 32 0x3010 = none := by decide

/-- A word put where the next step fetches runs right after reset (44_system.md R210, 42_framer_emit.md R159). -/
theorem test_fetch_nop : nextHas (step (State.reset.withFetchWord 32 0x00)) (fun t => t.status == 0) = true := by decide
theorem test_fetch_crc32 : nextHas (step (State.reset.withFetchWord 32 0x04)) (fun t => t.status == 0) = true := by
  decide
theorem test_fetch_putHdr :
    nextHas (step (State.reset.withFetchWord 32 0x12)) (fun t => t.status == 0x0A && t.esticky == 0x400) = true := by
  decide

/-! ### Single steps -/

theorem test_nop_clears_status :
    nextHas (exec .nop { start with status := 0x0A, esticky := 0x400 }) (fun t => t.status == 0 && t.esticky == 0x400)
      = true := by decide

/-- Vector V12, q = 0 from ones: 0xA5 in `[10:3]` of 4 bytes of 0xFF. -/
theorem test_pack_keeps_other_bits :
    nextHas (exec (.pack noQuirks) ((field 0 4 10 3 0xA5).memWrite 0 [0xFF, 0xFF, 0xFF, 0xFF]))
      (fun t => t.memRead 0 4 == [0xFF, 0xFF, 0xFD, 0x2F]) = true := by decide

/-- Vector V10, row 6: LITTLE_ENDIAN and LSW32_IS_FIRST lay the value out least significant byte first. -/
theorem test_pack_le_lsw :
    nextHas (exec (.pack ⟨false, true, true⟩) ((field 248 8 63 0 0x0123456789ABCDEF).memWrite 248 (List.replicate 8 0)))
      (fun t => t.memRead 248 8 == [0xEF, 0xCD, 0xAB, 0x89, 0x67, 0x45, 0x23, 0x01]) = true := by decide

/-- Vector V14, q = 0: the field `[47:16]` of the bytes 00 to 77. -/
theorem test_unpack_crosses_bytes :
    nextHas (exec (.unpack noQuirks)
        ((field 0 8 47 16 0).memWrite 0 [0x00, 0x11, 0x22, 0x33, 0x44, 0x55, 0x66, 0x77]))
      (fun t => t.value == 0x22334455) = true := by decide

/-- `[3:4]` is no field: UNPACK keeps VALUE and reports 0x01 (40_packing.md R120, R122). -/
theorem test_unpack_invalid_range :
    nextHas (exec (.unpack noQuirks) (field 0 4 3 4 0x77)) (fun t => t.value == 0x77 && t.status == 1 && t.esticky == 2)
      = true := by decide

/-- Vector V20: the CRC of 01 02 03 04. -/
theorem test_crc32_of_span :
    nextHas (exec .crc32 ((field 0 4 0 0 0).memWrite 0 [0x01, 0x02, 0x03, 0x04])) (fun t => t.crc == 0xE951A406)
      = true := by decide +kernel

theorem test_crc32_bad_length : nextHas (exec .crc32 (field 0 6 0 0 0)) (fun t => t.status == 0x08) = true := by decide

theorem test_frBegin_at_end_of_buf :
    nextHas (exec (.frBegin 0) (field 200 56 0 0 0)) (fun t => t.pos == 200 && t.limit == 256 && t.frstate == 1) = true := by
  decide

theorem test_frBegin_length_ignores_len :
    nextHas (exec (.frBegin 2) (field 200 57 0 0 0)) (fun t => t.limit == 0xFFFFFFFF && t.frmode == 2 && t.status == 0)
      = true := by decide

theorem test_putDevid_big_endian :
    nextHas (exec .putDevid { framer FrMode.pack FrState.devid 252 256 with devid := device })
      (fun t => t.memRead 252 4 == [0x9E, 0x00, 0x03, 0x0E] && t.pos == 256 && t.frstate == 2) = true := by decide

/-- Mode LENGTH writes no byte (20_memory.md R73). -/
theorem test_putDevid_length :
    nextHas (exec .putDevid { framer FrMode.length FrState.devid 252 256 with devid := device })
      (fun t => t.buf == [] && t.pos == 256) = true := by decide

/-- Vector V23: the header of block 7, 1 word; the body zeroed. -/
theorem test_putHdr_writes_header :
    nextHas (exec .putHdr ((table FrMode.pack FrState.hdr 240 256 7 1).memWrite 240 (List.replicate 16 0xAA)))
      (fun t => t.memRead 240 12 == [0x07, 0, 0, 0, 0, 0, 0, 0x01, 0x6F, 0xBE, 0x64, 0x1C] &&
        t.memRead 252 4 == [0, 0, 0, 0] && t.crc == 0x6FBE641C && t.pos == 252 && t.frstate == 3) = true := by decide +kernel

theorem test_putHdr_empty_body :
    nextHas (exec .putHdr (table FrMode.pack FrState.hdr 240 256 7 0)) (fun t => t.status == 0x0C && t.buf == []) = true := by
  decide

/-- The CRC of four zero bytes is 0x2144DF1C (41_crc32.md R144). -/
theorem test_putBodycrc_of_zeros :
    nextHas (exec .putBodycrc ((table FrMode.pack FrState.body 248 256 7 1).memWrite 248 [0, 0, 0, 0]))
      (fun t => t.memRead 252 4 == [0x21, 0x44, 0xDF, 0x1C] && t.crc == 0x2144DF1C && t.pos == 256) = true := by
  decide +kernel

theorem test_putEnd_writes_sentinel :
    nextHas (exec .putEnd (framer FrMode.pack FrState.hdr 244 256))
      (fun t => t.memRead 244 12 == [0, 0, 0, 0, 0, 0, 0, 0, 0xDE, 0xAD, 0xBE, 0xEF] && t.frstate == 4) = true := by
  decide

/-- A parse at a device identifier that the block knows, at one that it does not, and at headers. -/
def atDevid : State := (framer FrMode.unpack FrState.devid 252 256).memWrite 252 [0x9E, 0x00, 0x03, 0x0E]
def atOther : State := (framer FrMode.unpack FrState.devid 252 256).memWrite 252 [0x9C, 0x00, 0x00, 0x0C]

/-- The parse at offset `p` of 12 header bytes, the region ending at `lim`. -/
def atHdr (p lim : Nat) (h : List Byte) : State := (table FrMode.unpack FrState.hdr p lim 0 0).memWrite p h

/-- The parse at the body of a table of block 7, with its trailing CRC. -/
def atBody (lim : Nat) (l : List Byte) : State := (table FrMode.unpack FrState.body 248 lim 7 1).memWrite 248 l

theorem test_getDevid_known :
    nextHas (exec .getDevid atDevid) (fun t => t.devid == 0x9E00030E && t.pos == 256 && t.frstate == 2) = true := by decide

theorem test_getDevid_unknown :
    nextHas (exec .getDevid atOther)
      (fun t => t.devid == 0x9C00000C && t.status == 0x11 && t.pos == 252 && t.frstate == 5) = true := by decide

theorem test_getHdr_sentinel :
    nextHas (exec .getHdr (atHdr 244 256 [0, 0, 0, 0, 0, 0, 0, 0, 0x12, 0x34, 0x56, 0x78]))
      (fun t => t.rdcrc == 0x12345678 && t.crc == 0 && t.pos == 256 && t.frstate == 4) = true := by decide +kernel

theorem test_getHdr_wrong_crc :
    nextHas (exec .getHdr (atHdr 240 256 [7, 0, 0, 0, 0, 0, 0, 1, 0, 0, 0, 0]))
      (fun t => t.status == 0x12 && t.blkid == 7 && t.hlen == 1 && t.pos == 240 && t.seen == 0 && t.frstate == 5)
      = true := by decide +kernel

theorem test_getBody_counts_entries :
    nextHas (exec .getBody (atBody 256 [0, 0, 0, 0, 0x21, 0x44, 0xDF, 0x1C]))
      (fun t => t.ecnt == 1 && t.rdcrc == 0x2144DF1C && t.pos == 256 && t.frstate == 2) = true := by decide +kernel

theorem test_getBody_wrong_crc :
    nextHas (exec .getBody (atBody 256 [0, 0, 0, 1, 0x21, 0x44, 0xDF, 0x1C]))
      (fun t => t.status == 0x16 && t.ecnt == 0 && t.pos == 248 && t.frstate == 5) = true := by decide +kernel

theorem test_esticky_write_one_to_clear :
    nextHas (hostRegWrite 14 0x400 { start with esticky := 0x402 }) (fun t => t.esticky == 0x2) = true := by decide

theorem test_regWrite_truncates : nextHas (hostRegWrite 9 0x1000001 start) (fun t => t.hlen == 1) = true := by decide

/-- Reads through the port answer the register asked for (10_state.md R21: 5 is POS, 6 LIMIT, 17 SEEN). -/
theorem test_regRead_pos_limit_seen :
    nextHas (hostRegRead 5 (framer FrMode.pack FrState.hdr 0x11 0x22)) (fun t => t.reply == some (.register 0x11)) = true ∧
    nextHas (hostRegRead 6 (framer FrMode.pack FrState.hdr 0x11 0x22)) (fun t => t.reply == some (.register 0x22)) = true ∧
    nextHas (hostRegRead 17 { start with seen := 1#256 <<< 200 }) (fun t => t.reply == some (.register (2 ^ 200)))
      = true := by decide

/-- An illegal word on the command port reports 0x0B (vector V24). -/
theorem test_step_illegal_word :
    nextHas (step (start.issue 0x3010)) (fun t => t.status == 0x0B && t.esticky == 0x800) = true := by decide

/-! ### Witnesses: for each statement with hypotheses, states and operands that meet them, clause by clause -/

theorem witness_DecodeOfEncodeIsTheCommand : (Instr.pack ⟨true, true, true⟩).wellFormed = true := by decide

theorem witness_DecodedWordIsTheEncodingOfItsCommand : decode 0x2010 = .ok (.frBegin 2) := by rfl

theorem witness_IllegalWordsOnlyReportIllegalCommand :
    illegalWord 0x4000 ∧ illegalWord 0x802 ∧ illegalWord 0x01 ∧ illegalWord 0x104 ∧ illegalWord 0x1011 ∧
    illegalWord 0x3010 ∧ ¬ illegalWord 0x2010 ∧ ¬ illegalWord 0x702 :=
  ⟨by decide, by decide, by decide, by decide, by decide, by decide, by decide, by decide⟩

theorem witness_DecoderAgreesWithTheOpcodeTable :
    0x702#32 &&& tableMask (.pack noQuirks) = tableMatch (.pack noQuirks) ∧
    0x2010#32 &&& tableMask (.frBegin 0) = tableMatch (.frBegin 0) ∧ tableMatch (.frBegin 0) = 0x10 ∧
    (0x2010#32).toNat / 2 ^ 12 % 4 ≠ 3 := by decide

/-- The host is about to issue FR_BEGIN length, and then a NOP. -/
def twoPending : State := { start with pending := [.op (.cmd 0x2010), .op (.cmd 0)] }

theorem witness_StepRunsTheDecodedCommand :
    twoPending.pending = .op (.cmd 0x2010) :: [.op (.cmd 0)] ∧ decode 0x2010 = .ok (.frBegin 2) ∧
    (Instr.frBegin 2).wellFormed = true := ⟨rfl, rfl, rfl⟩

theorem witness_StepReportsAnIllegalWord :
    { start with pending := [.op (.cmd 0x3010)] }.pending = .op (.cmd 0x3010) :: [] ∧ illegalWord 0x3010 :=
  ⟨rfl, by decide⟩

theorem witness_FetchedEncodingRunsNext : Instr.getBody.wellFormed = true := by decide

theorem witness_IdleStepKeepsTheState : start.pending = [] := by rfl

/-- `start` with the one host operation `o` pending. -/
def pendingOp (o : HostOp) : State := { start with pending := [.op o] }

theorem witness_HostRegisterAccess :
    ((pendingOp (.regWrite 0 1)).pending = .op (.regWrite 0 1) :: [] ∧ Reg.ofNumber? 0 = some .value ∧
      Reg.value.access = .readWrite) ∧
    ((pendingOp (.regWrite 9 0x1000001)).pending = .op (.regWrite 9 0x1000001) :: [] ∧ Reg.ofNumber? 9 = some .hlen ∧
      Reg.hlen.access = .readWrite) ∧
    (pendingOp (.regWrite 14 0x400)).pending = .op (.regWrite 14 0x400) :: [] ∧
    ((pendingOp (.regRead 17)).pending = .op (.regRead 17) :: [] ∧ Reg.ofNumber? 17 = some .seen) ∧
    ((pendingOp (.regWrite 17 0)).pending = .op (.regWrite 17 0) :: [] ∧ Reg.seen.access = .readOnly) ∧
    (17 < 18 ∧ (pendingOp (.regWrite 18 0)).pending = .op (.regWrite 18 0) :: [] ∧
      (pendingOp (.regRead 18)).pending = .op (.regRead 18) :: []) := by decide

theorem witness_HostBufferAccess :
    ((pendingOp (.bufWrite 255 1)).pending = .op (.bufWrite 255 1) :: [] ∧
      (pendingOp (.bufRead 255)).pending = .op (.bufRead 255) :: [] ∧ 255 < start.bufBytes) ∧
    ((pendingOp (.bufWrite 256 1)).pending = .op (.bufWrite 256 1) :: [] ∧
      (pendingOp (.bufRead 256)).pending = .op (.bufRead 256) :: [] ∧ start.bufBytes ≤ 256) := by decide

theorem witness_ResetClearsEveryRegister : { start with pending := [.reset] }.pending = .reset :: [] := by rfl

theorem witness_StepKeepsTheInvariants : start.Inv ∧ step start = .next start := ⟨inv_of_check _ (by decide), rfl⟩

theorem witness_NoStepLeavesBuf : (framer FrMode.pack FrState.devid 252 256).Inv := inv_of_check _ (by decide)

theorem witness_StepKeepsTheParameters :
    step { start with pending := [.op (.cmd 0)] } = .next { start with status := 0 } := rfl

theorem witness_EveryCommandEndsOkOrWithOneError : { start with status := 0x17, esticky := 0x800000 }.Inv :=
  inv_of_check _ (by decide)

theorem witness_CallerErrorsOnlyReport :
    nextHas (exec (.pack noQuirks) (field 0 4 3 4 0)) (fun t => t.status.toNat == 0x01) = true ∧
    nextHas (exec .putHdr (table FrMode.pack FrState.hdr 240 256 7 0)) (fun t => t.status.toNat == 0x0C) = true := by
  decide

theorem witness_FramingErrorsFailTheParse :
    nextHas (exec .getDevid (framer FrMode.unpack FrState.devid 253 256)) (fun t => t.status.toNat == 0x10) = true := by
  decide

theorem witness_FramerFollowsTheTransitionTable :
    (framer FrMode.pack FrState.hdr 252 256).Inv ∧ nextStates FrMode.pack FrState.hdr .putDevid = [] ∧
    nextStates FrMode.pack FrState.devid .putDevid ≠ [] ∧
    nextHas (exec .putDevid (framer FrMode.pack FrState.devid 252 256)) (fun t => t.status == 0) = true ∧
    nextHas (exec .putDevid (framer FrMode.pack FrState.devid 253 256)) (fun t => t.status.toNat == 0x09) = true ∧
    nextHas (exec .getDevid (framer FrMode.unpack FrState.devid 253 256)) (fun t => t.status.toNat == 0x10) = true :=
  ⟨inv_of_check _ (by decide), by decide⟩

theorem witness_OnlyFrBeginLeavesFailed :
    (framer FrMode.unpack FrState.failed 0 4).frstate = FrState.failed ∧ Instr.getDevid ∈ framingCommands ∧
    nextHas (exec .nop (framer FrMode.unpack FrState.failed 0 4)) (fun _ => true) = true := by decide

theorem witness_CursorMovesByWholeElements :
    (framer FrMode.pack FrState.devid 252 256).Inv ∧
    nextHas (exec .putDevid (framer FrMode.pack FrState.devid 252 256)) (fun t => t.pos == 256) = true :=
  ⟨inv_of_check _ (by decide), by decide⟩

theorem witness_SeenChangesOnlyByAcceptedHeaders :
    nextHas (exec .getHdr (atHdr 240 256 [7, 0, 0, 0, 0, 0, 0, 1, 0x6F, 0xBE, 0x64, 0x1C])) (fun t => t.seen == 1#256 <<< 7) = true := by decide +kernel

/-- A 64-bit field that ends at the end of BUF, and the highest value of a byte-wide one. -/
theorem witness_PackSetsExactlyTheField :
    ((field 248 8 63 0 0xFFFFFFFFFFFFFFFF).fieldLegal ⟨true, true, true⟩ ∧
      (field 248 8 63 0 0xFFFFFFFFFFFFFFFF).valueFits) ∧
    ((field 252 4 7 0 255).fieldLegal noQuirks ∧ (field 252 4 7 0 255).valueFits) := by decide

theorem witness_PackWritesPackOfTheBuffer :
    ((field 252 4 7 0 255).fieldLegal noQuirks ∧ (field 252 4 7 0 255).valueFits) ∧
    nextHas (exec (.pack noQuirks) (field 252 4 7 0 255)) (fun _ => true) = true := by decide

theorem witness_UnpackReadsExactlyTheField : (field 248 8 63 0 0).fieldLegal ⟨false, false, true⟩ := by decide

theorem witness_PackAndUnpackErrors :
    ((field 0 4 3 4 0).start.toNat < (field 0 4 3 4 0).endBit.toNat) ∧
    ((field 0 12 64 0 0).endBit.toNat ≤ (field 0 12 64 0 0).start.toNat ∧ 64 < (field 0 12 64 0 0).fieldWidth) ∧
    ((field 0 4 7 0 256).fieldWidth ≤ 64 ∧ ¬ (field 0 4 7 0 256).valueFits) ∧
    ((field 0 6 7 0 255).fieldWidth ≤ 64 ∧ (field 0 6 7 0 255).valueFits ∧ (field 0 6 7 0 255).len.toNat % 4 ≠ 0) ∧
    (8 * (field 0 4 32 32 1).len.toNat ≤ (field 0 4 32 32 1).start.toNat ∧ (field 0 4 32 32 1).valueFits) ∧
    ((field 0 4 32 32 1).fieldWidth ≤ 64 ∧ (field 253 4 7 0 255).fieldWidth ≤ 64) ∧
    ((field 253 4 7 0 255).bufBytes < (field 253 4 7 0 255).base.toNat + (field 253 4 7 0 255).len.toNat ∧
      (field 253 4 7 0 255).valueFits) := by decide

theorem witness_PackRoundTrip :
    packLegal 0xFFFFFFFFFFFFFFFF 63 0 (List.replicate 8 (0 : Byte)).length ⟨true, true, true⟩ ∧
    packLegal 1 7 7 [(0xFF : Byte)].length noQuirks := by decide

theorem witness_PlainPackIsBigEndian : packLegal 0xFF 14 7 [(0xAA : Byte), 0x55].length noQuirks := by decide

theorem witness_DisjointPacksCommute :
    packLegal 0xF 7 4 [(0 : Byte)].length noQuirks ∧ packLegal 0x9 3 0 [(0 : Byte)].length noQuirks ∧ (4 < 7 ∧ 3 < 4) := by
  decide

theorem witness_PhysAddrIsABijection : (true = true ∨ true = true) → 8 % 4 = 0 := by decide

theorem witness_Crc32ChecksTheSpan :
    ((field 256 0 0 0 0).len = 0 ∧ (field 256 0 0 0 0).base.toNat ≤ (field 256 0 0 0 0).bufBytes) ∧
    ((field 0 256 0 0 0).len.toNat % 4 = 0 ∧
      (field 0 256 0 0 0).base.toNat + (field 0 256 0 0 0).len.toNat ≤ (field 0 256 0 0 0).bufBytes) ∧
    (field 0 6 0 0 0).len.toNat % 4 ≠ 0 ∧
    ((field 253 4 0 0 0).len.toNat % 4 = 0 ∧
      (field 253 4 0 0 0).bufBytes < (field 253 4 0 0 0).base.toNat + (field 253 4 0 0 0).len.toNat) := by decide

theorem witness_NormReversesEachWord : [(1 : Byte), 2, 3, 4].length % 4 = 0 ∧ 4 * 0 + 3 < 4 ∧ 3 < 4 := by decide

theorem witness_CrcDetectsEveryFlippedBit : [(1 : Byte), 2, 3, 4].length % 4 = 0 ∧ 3 < 4 ∧ 7 < 8 := by decide

theorem witness_FrBeginStartsAStream :
    (2#2).toNat ≤ 2 ∧
    ((field 200 56 0 0 0).base.toNat + (field 200 56 0 0 0).len.toNat ≤ (field 200 56 0 0 0).bufBytes) ∧
    ((field 200 57 0 0 0).bufBytes < (field 200 57 0 0 0).base.toNat + (field 200 57 0 0 0).len.toNat) := by decide

theorem witness_PutDevidEmitsTheDeviceId :
    ((framer FrMode.pack FrState.devid 252 256).Inv ∧ (framer FrMode.pack FrState.devid 252 256).canEmit FrState.devid 4) ∧
    ((framer FrMode.length FrState.devid 4294967291 4294967295).Inv ∧
      (framer FrMode.length FrState.devid 4294967291 4294967295).canEmit FrState.devid 4) :=
  ⟨⟨inv_of_check _ (by decide), by decide⟩, inv_of_check _ (by decide), by decide⟩

theorem witness_PutHdrEmitsTheHeaderAndZeroesTheBody :
    ((table FrMode.pack FrState.hdr 240 256 7 1).Inv ∧ (table FrMode.pack FrState.hdr 240 256 7 1).hlen ≠ 0 ∧
      (table FrMode.pack FrState.hdr 240 256 7 1).canEmit FrState.hdr
        (12 + (table FrMode.pack FrState.hdr 240 256 7 1).bodyLen)) ∧
    ((table FrMode.length FrState.hdr 240 256 7 1).Inv ∧
      (table FrMode.length FrState.hdr 240 256 7 1).canEmit FrState.hdr
        (12 + (table FrMode.length FrState.hdr 240 256 7 1).bodyLen)) :=
  ⟨⟨inv_of_check _ (by decide), by decide, by decide⟩, inv_of_check _ (by decide), by decide⟩

theorem witness_PutBodycrcEmitsTheTrailingCrc :
    ((table FrMode.pack FrState.body 248 256 7 1).Inv ∧ (table FrMode.pack FrState.body 248 256 7 1).hlen ≠ 0 ∧
      (table FrMode.pack FrState.body 248 256 7 1).canEmit FrState.body
        ((table FrMode.pack FrState.body 248 256 7 1).bodyLen + 4)) ∧
    ((table FrMode.length FrState.body 248 256 7 1).Inv ∧
      (table FrMode.length FrState.body 248 256 7 1).canEmit FrState.body
        ((table FrMode.length FrState.body 248 256 7 1).bodyLen + 4)) :=
  ⟨⟨inv_of_check _ (by decide), by decide, by decide⟩, inv_of_check _ (by decide), by decide⟩

theorem witness_PutEndEmitsTheSentinel :
    (framer FrMode.pack FrState.hdr 244 256).Inv ∧ (framer FrMode.pack FrState.hdr 244 256).canEmit FrState.hdr 12 :=
  ⟨inv_of_check _ (by decide), by decide⟩

theorem witness_PutErrors :
    (framer FrMode.unpack FrState.devid 0 4).frmode = FrMode.unpack ∧
    (framer FrMode.pack FrState.hdr 0 4).frstate ≠ FrState.devid ∧
    ((table FrMode.pack FrState.hdr 0 99 7 0).frmode ≠ FrMode.unpack ∧ (table FrMode.pack FrState.hdr 0 99 7 0).hlen = 0) ∧
    ((framer FrMode.pack FrState.devid 253 256).limit.toNat < (framer FrMode.pack FrState.devid 253 256).pos.toNat + 4) ∧
    ((table FrMode.pack FrState.hdr 241 256 7 1).hlen ≠ 0 ∧
      (table FrMode.pack FrState.hdr 241 256 7 1).limit.toNat <
        (table FrMode.pack FrState.hdr 241 256 7 1).pos.toNat + 12 + (table FrMode.pack FrState.hdr 241 256 7 1).bodyLen) ∧
    ((table FrMode.pack FrState.body 249 256 7 1).hlen ≠ 0 ∧
      (table FrMode.pack FrState.body 249 256 7 1).limit.toNat <
        (table FrMode.pack FrState.body 249 256 7 1).pos.toNat + (table FrMode.pack FrState.body 249 256 7 1).bodyLen + 4) ∧
    ((framer FrMode.pack FrState.hdr 245 256).limit.toNat < (framer FrMode.pack FrState.hdr 245 256).pos.toNat + 12) := by
  decide

theorem witness_GetDevidReadsTheDeviceId :
    atDevid.Inv ∧ atDevid.canParse FrState.devid 4 ∧
    BitVec.ofNat 32 (beNat (atDevid.memRead atDevid.pos.toNat 4)) ∈ atDevid.params.deviceIds :=
  ⟨inv_of_check _ (by decide), by decide, by decide⟩

/-- The header of block 7, 1 word (vector V23), at 240; its body would end where BUF ends. -/
def goodHdr : State := atHdr 240 256 [7, 0, 0, 0, 0, 0, 0, 1, 0x6F, 0xBE, 0x64, 0x1C]

theorem witness_GetHdrAcceptsATableHeader :
    goodHdr.Inv ∧ goodHdr.canParse FrState.hdr 12 ∧ goodHdr.hdrLen ≠ 0 ∧ goodHdr.hdrOwnCrc = goodHdr.hdrRdcrc ∧
    goodHdr.pos.toNat + 12 + goodHdr.hdrLen * 4 ≤ goodHdr.limit.toNat ∧
    entrySize goodHdr.params goodHdr.devid goodHdr.hdrBlk ≠ none ∧ goodHdr.seen.getLsbD goodHdr.hdrBlk.toNat = false :=
  ⟨inv_of_check _ (by decide +kernel), by decide +kernel⟩

/-- A sentinel at 244, where the region ends with BUF; and one with a byte of the region after it. -/
def goodSentinel : State := atHdr 244 256 (sentinelBytes testParams)
def earlySentinel : State := atHdr 243 256 (sentinelBytes testParams)

theorem witness_GetHdrAcceptsTheSentinel :
    goodSentinel.Inv ∧ goodSentinel.canParse FrState.hdr 12 ∧ goodSentinel.hdrLen = 0 ∧
    goodSentinel.pos.toNat + 12 = goodSentinel.limit.toNat :=
  ⟨inv_of_check _ (by decide +kernel), by decide +kernel⟩

/-- Headers that fail: with a wrong CRC, with no room for the body, of an unknown block, of a block already seen. -/
def wrongCrcHdr : State := atHdr 240 256 [7, 0, 0, 0, 0, 0, 0, 1, 0, 0, 0, 0]
def longHdr : State := atHdr 240 255 [7, 0, 0, 0, 0, 0, 0, 1, 0x6F, 0xBE, 0x64, 0x1C]
def unknownHdr : State := atHdr 240 256 [0x33, 0, 0, 0, 0, 0, 0, 1, 0x3B, 0x1F, 0x7A, 0x5A]
def seenHdr : State := { goodHdr with seen := 1#256 <<< 7 }

theorem witness_GetDevidAndGetHdrErrors_sequence_and_devid :
    start.Inv ∧ start.frmode ≠ FrMode.unpack ∧
    ((framer FrMode.unpack FrState.devid 253 256).Inv ∧ (framer FrMode.unpack FrState.devid 253 256).canParse FrState.devid 0 ∧
      (framer FrMode.unpack FrState.devid 253 256).limit.toNat < (framer FrMode.unpack FrState.devid 253 256).pos.toNat + 4) ∧
    (atOther.Inv ∧ atOther.canParse FrState.devid 4 ∧
      BitVec.ofNat 32 (beNat (atOther.memRead atOther.pos.toNat 4)) ∉ atOther.params.deviceIds) :=
  ⟨inv_of_check _ (by decide), by decide, ⟨inv_of_check _ (by decide), by decide, by decide⟩,
    inv_of_check _ (by decide), by decide, by decide⟩

theorem witness_GetDevidAndGetHdrErrors_short_and_sentinel :
    ((framer FrMode.unpack FrState.hdr 245 256).Inv ∧ (framer FrMode.unpack FrState.hdr 245 256).canParse FrState.hdr 0 ∧
      (framer FrMode.unpack FrState.hdr 245 256).limit.toNat < (framer FrMode.unpack FrState.hdr 245 256).pos.toNat + 12) ∧
    (earlySentinel.Inv ∧ earlySentinel.canParse FrState.hdr 12 ∧ earlySentinel.hdrLen = 0 ∧
      earlySentinel.pos.toNat + 12 ≠ earlySentinel.limit.toNat) :=
  ⟨⟨inv_of_check _ (by decide), by decide, by decide⟩, inv_of_check _ (by decide +kernel), by decide +kernel⟩

theorem witness_GetDevidAndGetHdrErrors_header :
    (wrongCrcHdr.Inv ∧ wrongCrcHdr.canParse FrState.hdr 12 ∧ wrongCrcHdr.hdrLen ≠ 0 ∧
      wrongCrcHdr.hdrOwnCrc ≠ wrongCrcHdr.hdrRdcrc) ∧
    (longHdr.Inv ∧ longHdr.canParse FrState.hdr 12 ∧ longHdr.hdrLen ≠ 0 ∧ longHdr.hdrOwnCrc = longHdr.hdrRdcrc ∧
      longHdr.limit.toNat < longHdr.pos.toNat + 12 + longHdr.hdrLen * 4) :=
  ⟨⟨inv_of_check _ (by decide +kernel), by decide +kernel⟩, inv_of_check _ (by decide +kernel), by decide +kernel⟩

theorem witness_GetDevidAndGetHdrErrors_block :
    (unknownHdr.Inv ∧ unknownHdr.canParse FrState.hdr (12 + unknownHdr.hdrLen * 4) ∧ unknownHdr.hdrLen ≠ 0 ∧
      unknownHdr.hdrOwnCrc = unknownHdr.hdrRdcrc ∧ entrySize unknownHdr.params unknownHdr.devid unknownHdr.hdrBlk = none) ∧
    (seenHdr.Inv ∧ seenHdr.canParse FrState.hdr (12 + seenHdr.hdrLen * 4) ∧ seenHdr.hdrLen ≠ 0 ∧
      seenHdr.hdrOwnCrc = seenHdr.hdrRdcrc ∧ entrySize seenHdr.params seenHdr.devid seenHdr.hdrBlk ≠ none ∧
      seenHdr.seen.getLsbD seenHdr.hdrBlk.toNat = true) :=
  ⟨⟨inv_of_check _ (by decide +kernel), by decide +kernel⟩, inv_of_check _ (by decide +kernel), by decide +kernel⟩

/-- A body of one word with its trailing CRC, ending where BUF ends; a wrong body; one short of its trailing CRC; one whose
length is no multiple of the entry size. -/
def goodBody : State := atBody 256 [0, 0, 0, 0, 0x21, 0x44, 0xDF, 0x1C]
def wrongBody : State := atBody 256 [0, 0, 0, 1, 0x21, 0x44, 0xDF, 0x1C]
def shortBody : State := atBody 255 [0, 0, 0, 0, 0x21, 0x44, 0xDF]
def raggedBody : State := table FrMode.unpack FrState.body 248 256 5 1
def unknownBody : State := table FrMode.unpack FrState.body 248 256 6 1

theorem witness_GetBodyAcceptsABody :
    goodBody.Inv ∧ goodBody.canParse FrState.body (goodBody.bodyLen + 4) ∧
    entrySize goodBody.params goodBody.devid goodBody.blkid = some 4 ∧ goodBody.bodyLen % 4 = 0 ∧
    goodBody.bodyCrc = goodBody.trailingCrc ∧ goodBody.bodyLen / 4 < 2 ^ 24 :=
  ⟨inv_of_check _ (by decide), by decide +kernel⟩

theorem witness_GetBodyErrors :
    (start.Inv ∧ start.frmode ≠ FrMode.unpack) ∧
    (unknownBody.Inv ∧ unknownBody.canParse FrState.body 0 ∧
      entrySize unknownBody.params unknownBody.devid unknownBody.blkid = none) ∧
    (raggedBody.Inv ∧ raggedBody.canParse FrState.body 0 ∧
      entrySize raggedBody.params raggedBody.devid raggedBody.blkid = some 8 ∧ raggedBody.bodyLen % 8 ≠ 0) ∧
    (shortBody.Inv ∧ shortBody.canParse FrState.body 0 ∧
      entrySize shortBody.params shortBody.devid shortBody.blkid = some 4 ∧ shortBody.bodyLen % 4 = 0 ∧
      shortBody.limit.toNat < shortBody.pos.toNat + shortBody.bodyLen + 4) ∧
    (wrongBody.Inv ∧ wrongBody.canParse FrState.body (wrongBody.bodyLen + 4) ∧
      entrySize wrongBody.params wrongBody.devid wrongBody.blkid = some 4 ∧ wrongBody.bodyLen % 4 = 0 ∧
      wrongBody.bodyCrc ≠ wrongBody.trailingCrc) :=
  ⟨⟨inv_of_check _ (by decide), by decide⟩, ⟨inv_of_check _ (by decide), by decide⟩,
    ⟨inv_of_check _ (by decide), by decide⟩, ⟨inv_of_check _ (by decide), by decide⟩,
    inv_of_check _ (by decide), by decide +kernel⟩

/-- Two tables, of one entry of 8 bytes and of one of 4. -/
def twoBlocks : List Block := [(5, [0xDE, 0xAD, 0xBE, 0xEF, 0x01, 0x23, 0x45, 0x67]), (7, [0, 0, 0, 0x2A])]

theorem witness_blocksParsable : blocksParsable testParams device twoBlocks := by
  refine ⟨by decide, by simp only [blocksFramable]; decide, ?_⟩
  simp only [twoBlocks, List.forall_mem_cons, List.not_mem_nil, false_implies, implies_true, and_true]
  exact ⟨⟨by decide, 8, by decide, by decide⟩, by decide, 4, by decide, by decide⟩

theorem witness_DeframeOfFrameIsTheStream : device ∈ testParams.deviceIds ∧ blocksParsable testParams device twoBlocks :=
  ⟨by decide, witness_blocksParsable⟩

/-- The stream of `twoBlocks` takes 60 bytes (vector V30), which end where BUF ends. -/
theorem witness_EmitSequenceWritesTheFrame :
    { start with pending := emitSequence 196 60 device twoBlocks }.Inv ∧ blocksFramable twoBlocks ∧
    getLength twoBlocks ≤ 60 ∧ 196 + 60 ≤ start.bufBytes :=
  ⟨inv_of_check _ (by decide), witness_blocksParsable.2.1, by decide, by decide⟩

theorem witness_LengthSequenceComputesTheLength :
    { start with pending := lengthSequence 4294967235 4294967295 device twoBlocks }.Inv ∧ blocksFramable twoBlocks ∧
    4294967235 + getLength twoBlocks ≤ 2 ^ 32 - 1 :=
  ⟨inv_of_check _ (by decide), witness_blocksParsable.2.1, by decide⟩

/-- A stream of the device with no table, 16 bytes at 240; and the same short of its last byte. -/
def emptyStream : State := (field 240 16 0 0 0).memWrite 240 (frame testParams device [])
def shortStream : State := { emptyStream with len := 15 }

theorem witness_ParseSequenceIsDeframe :
    (emptyStream.base.toNat + emptyStream.len.toNat ≤ emptyStream.bufBytes ∧
      deframe emptyStream.params (emptyStream.memRead emptyStream.base.toNat emptyStream.len.toNat) = .ok (device, [])) ∧
    (shortStream.base.toNat + shortStream.len.toNat ≤ shortStream.bufBytes ∧
      deframe shortStream.params (shortStream.memRead shortStream.base.toNat shortStream.len.toNat) =
        .error (.unexpectedEndOfBuffer, 4)) :=
  ⟨⟨by decide, by decide +kernel⟩, by decide, by decide +kernel⟩

/-- The second table, of one word: its last trailing CRC bit; the last header CRC bit; the one bit of its `len`. -/
theorem witness_FlippedTableBitFailsTheParse :
    device ∈ testParams.deviceIds ∧ blocksParsable testParams device ([(5, [0xDE, 0xAD, 0xBE, 0xEF, 0x01, 0x23, 0x45, 0x67])]
      ++ (7, [0, 0, 0, 0x2A]) :: []) ∧ 7 < 4 + 4 ∧
    lenFieldAt (flipBit (frame testParams device twoBlocks) (28 + 11) 0) 28 ≠ 0 ∧
    lenFieldAt (flipBit (frame testParams device twoBlocks) (28 + 7) 0) 28 = 0 :=
  ⟨by decide, witness_blocksParsable, by decide +kernel⟩

end Sys2Proof.Tests
end

section
/-! PROOFS. What every command and every event can do, said once as a relation between the state before and the state
after; and from it the statements of 10_state.md: the invariants, the parameters, the cursor and the host's registers. -/

namespace Sys2Proof.Machine

/-! ### ESTICKY and its reserved bits -/

/-- Reporting a kind sets the bit of an error code only (10_state.md R31). -/
theorem stickySet_reserved (e : BitVec 32) (k : ErrorKind) (h : e &&& ~~~stickyMask = 0) :
    stickySet e k &&& ~~~stickyMask = 0 := by
  have hk : BitVec.ofNat 32 (2 ^ k.code) &&& ~~~stickyMask = 0 := by cases k <;> decide
  rw [stickySet, BitVec.and_comm, BitVec.and_or_distrib_left, BitVec.and_comm, h, BitVec.and_comm, hk]
  rfl

/-- A host write to ESTICKY sets no bit (R31). -/
theorem stickyClear_reserved (e w : BitVec 32) (h : e &&& ~~~stickyMask = 0) :
    stickyClear e w &&& ~~~stickyMask = 0 := by
  rw [stickyClear, BitVec.and_assoc, BitVec.and_comm (~~~w), ← BitVec.and_assoc, h]
  exact BitVec.zero_and

/-! ### Updates that keep the framer -/

/-- `u` has the framer's registers, the flags and the parameters of `s`; BUF stays canonical, and lists beyond what `s`
listed only bytes that exist. The other registers are free: this is what a command may do before it ends. -/
structure KeepsFramer (s u : State) : Prop where
  pos : u.pos = s.pos
  limit : u.limit = s.limit
  frstate : u.frstate = s.frstate
  frmode : u.frmode = s.frmode
  status : u.status = s.status
  esticky : u.esticky = s.esticky
  params : u.params = s.params
  buf_wf : s.buf.wf → u.buf.wf
  buf_exists : ∀ c ∈ u.buf, c ∈ s.buf ∨ c.1 < s.bufBytes

namespace KeepsFramer

variable {s u v : State}

theorem bufBytes (h : KeepsFramer s u) : u.bufBytes = s.bufBytes := congrArg Params.bufBytes h.params

theorem trans (h : KeepsFramer s u) (h' : KeepsFramer u v) : KeepsFramer s v where
  pos := h'.pos.trans h.pos
  limit := h'.limit.trans h.limit
  frstate := h'.frstate.trans h.frstate
  frmode := h'.frmode.trans h.frmode
  status := h'.status.trans h.status
  esticky := h'.esticky.trans h.esticky
  params := h'.params.trans h.params
  buf_wf := h'.buf_wf ∘ h.buf_wf
  buf_exists c hc := (h'.buf_exists c hc).elim (h.buf_exists c) (fun hlt => .inr (h.bufBytes ▸ hlt))

/-- Updates of the registers that are no framer's and no flag. -/
theorem of_buf_eq (hpos : u.pos = s.pos) (hlimit : u.limit = s.limit) (hfrstate : u.frstate = s.frstate)
    (hfrmode : u.frmode = s.frmode) (hstatus : u.status = s.status) (hesticky : u.esticky = s.esticky)
    (hparams : u.params = s.params) (hbuf : u.buf = s.buf) : KeepsFramer s u :=
  ⟨hpos, hlimit, hfrstate, hfrmode, hstatus, hesticky, hparams, fun h => hbuf ▸ h, fun _ hc => .inl (hbuf ▸ hc)⟩

variable (s)

theorem refl : KeepsFramer s s := .of_buf_eq rfl rfl rfl rfl rfl rfl rfl rfl

theorem setValue (x : BitVec 64) : KeepsFramer s (s.setValue x) := .of_buf_eq rfl rfl rfl rfl rfl rfl rfl rfl

theorem setCrc (c : Word) : KeepsFramer s (s.setCrc c) := .of_buf_eq rfl rfl rfl rfl rfl rfl rfl rfl

theorem setDevid (d : Word) : KeepsFramer s (s.setDevid d) := .of_buf_eq rfl rfl rfl rfl rfl rfl rfl rfl

theorem setSeen (x : BitVec 256) : KeepsFramer s (s.setSeen x) := .of_buf_eq rfl rfl rfl rfl rfl rfl rfl rfl

theorem setCrcs (c r : Word) : KeepsFramer s (s.setCrcs c r) := .of_buf_eq rfl rfl rfl rfl rfl rfl rfl rfl

theorem readHeader (l : List Byte) : KeepsFramer s (s.readHeader l) := .of_buf_eq rfl rfl rfl rfl rfl rfl rfl rfl

theorem countEntries (n : Nat) : KeepsFramer s (s.countEntries n) := .of_buf_eq rfl rfl rfl rfl rfl rfl rfl rfl

theorem answer (r : Reply) : KeepsFramer s (s.answer r) := .of_buf_eq rfl rfl rfl rfl rfl rfl rfl rfl

theorem taken (rest : List Event) : KeepsFramer s (s.taken rest) := .of_buf_eq rfl rfl rfl rfl rfl rfl rfl rfl

/-- A host write reaches no framer register; ESTICKY is the one flag it reaches (10_state.md R21, R36). -/
theorem writeReg (r : Reg) (x : Nat) (hr : r ≠ .esticky) : KeepsFramer s (s.writeReg r x) := by
  cases r with
  | esticky => exact absurd rfl hr
  | _ => exact .of_buf_eq rfl rfl rfl rfl rfl rfl rfl rfl

variable {s}

theorem putByte {a : Nat} (ha : a < s.bufBytes) (b : Byte) : KeepsFramer s (s.putByte a b) where
  __ := refl s
  buf_wf := Memory.putByte_wf s.buf a b
  buf_exists c hc := (Memory.mem_putByte s.buf a b c hc).symm.imp_right (fun (h : c.1 = a) => h.trans_lt ha)

theorem memWrite {a : Nat} {bs : List Byte} (h : a + bs.length ≤ s.bufBytes) : KeepsFramer s (s.memWrite a bs) where
  __ := refl s
  buf_wf := Memory.putBytes_wf s.buf a bs
  buf_exists c hc := (Memory.mem_putBytes s.buf a bs c hc).symm.imp_right (fun hspan => by omega)

end KeepsFramer

/-- The bytes of a box stay in the packed buffer (20_memory.md R64, R69). -/
theorem physAddr_lt (b n : Nat) (q : Quirks) (hq : (q.le ∨ q.lsw) → n % 4 = 0) (hb : b < n) : physAddr b n q < n := by
  simp only [physAddr]
  split_ifs with hlsw hle hle
  · have := hq (.inr hlsw); omega
  · have := hq (.inr hlsw); omega
  · have := hq (.inl hle); omega
  · omega

theorem KeepsFramer.packField {s : State} {q : Quirks} (h : s.fieldLegal q) : KeepsFramer s (s.packField q) where
  __ := refl s
  buf_wf := Memory.packField_wf s.buf _ _ _ _ _ _ q
  buf_exists c hc := by
    obtain ⟨hle, -, hquirks, hstart, hspan⟩ := h
    refine (Memory.mem_packField _ _ _ _ _ _ _ _ c hc).symm.imp_right ?_
    rintro ⟨box, hbox, hc⟩
    have hlt := physAddr_lt box s.len.toNat q hquirks (by have := (mem_boxes _ _ _ hle).1 hbox; omega)
    omega

/-! ### What a command can do -/

/-- A stream is under way: the states in which a PUT or a GET command may be in sequence (44_system.md R213). -/
def State.streamOpen (s : State) : Prop := s.frstate ∈ [FrState.devid, FrState.hdr, FrState.body]

/-- The ends of a command: a caller error; a framing error of a GET command; OK, the framer staying; OK, the cursor going
past the next element; OK, FR_BEGIN opening a stream. `u` is the state the command has prepared before it ends. -/
inductive CommandEffect : Instr → State → State → Prop where
  | raised {i : Instr} {s : State} (k : ErrorKind) : CommandEffect i s (s.raise k)
  | failed {i : Instr} {s u : State} (k : ErrorKind) (hu : KeepsFramer s u) (hmode : s.frmode = FrMode.unpack)
      (hopen : s.streamOpen) : CommandEffect i s (u.fail k)
  | completed {i : Instr} {s u : State} (hu : KeepsFramer s u) : CommandEffect i s u.ok
  | advanced {i : Instr} {s u : State} {n : Nat} {st : BitVec 3} (hu : KeepsFramer s u) (hopen : s.streamOpen)
      (hn : n ∈ [4, 12, s.bodyLen + 4]) (hroom : s.pos.toNat + n ≤ s.limit.toNat)
      (hst : st ∈ [FrState.hdr, FrState.body, FrState.done]) :
      CommandEffect i s (u.advance (s.pos.toNat + n) st).ok
  | began {m : BitVec 2} {s : State} {lim : Nat} (hm : m.toNat ≤ 2) (hbase : s.base.toNat ≤ lim) (hlim : lim < 2 ^ 32)
      (hbuf : m ≠ FrMode.length → lim ≤ s.bufBytes) : CommandEffect (.frBegin m) s (s.beginStream m lim).ok

section
variable {s t : State}

theorem execPack_effect {q : Quirks} (h : execPack q s = .next t) : CommandEffect (.pack q) s t := by
  rcases execPack_eq_next q s t h with ⟨hlegal, rfl⟩ | ⟨k, -, rfl⟩
  · exact .completed (.packField ((fieldError_eq_none_iff _ _ _).1 hlegal).1)
  · exact .raised _

theorem execUnpack_effect {q : Quirks} (h : execUnpack q s = .next t) : CommandEffect (.unpack q) s t := by
  rcases execUnpack_eq_next q s t h with ⟨-, rfl⟩ | ⟨k, -, rfl⟩
  · exact .completed (.setValue s _)
  · exact .raised _

theorem execCrc32_effect (h : execCrc32 s = .next t) : CommandEffect .crc32 s t := by
  rcases execCrc32_eq_next s t h with rfl | rfl | ⟨-, -, rfl⟩
  · exact .raised _
  · exact .raised _
  · exact .completed (.setCrc s _)

theorem execFrBegin_effect {m : BitVec 2} (h : execFrBegin m s = .next t) : CommandEffect (.frBegin m) s t := by
  have hsize : s.bufBytes < 2 ^ 32 := by
    have := s.params.bufExtra.isLt
    simp only [State.bufBytes, Params.bufBytes]; omega
  rcases execFrBegin_eq_next m s t h with ⟨hm, hspan, rfl⟩ | ⟨rfl, rfl⟩ | rfl | rfl
  · exact .began (by rcases hm with rfl | rfl <;> decide) (by omega) (by omega) (fun _ => hspan)
  · exact .began (by decide) (by have := s.base.isLt; omega) (by decide) (absurd rfl)
  · exact .raised _
  · exact .raised _

/-- A PUT command past its tests: its `size` bytes are stored in mode PACK only, the cursor goes on in either mode
(42_framer_emit.md R161 to R164). -/
theorem CommandEffect.of_emitted {i : Instr} {u : State} {n size : Nat} {st : BitVec 3} (hopen : s.streamOpen)
    (hn : n ∈ [4, 12, s.bodyLen + 4]) (hroom : s.pos.toNat + n ≤ s.limit.toNat)
    (hst : st ∈ [FrState.hdr, FrState.body, FrState.done])
    (hstore : s.pos.toNat + size ≤ s.bufBytes → KeepsFramer s u)
    (hemit : (s.frmode = FrMode.pack ∧ s.pos.toNat + size ≤ s.bufBytes ∧ t = (u.advance (s.pos.toNat + n) st).ok) ∨
      (s.frmode ≠ FrMode.pack ∧ t = (s.advance (s.pos.toNat + n) st).ok)) : CommandEffect i s t := by
  rcases hemit with ⟨-, hspan, rfl⟩ | ⟨-, rfl⟩
  · exact .advanced (hstore hspan) hopen hn hroom hst
  · exact .advanced (.refl s) hopen hn hroom hst

theorem execPutDevid_effect (h : execPutDevid s = .next t) : CommandEffect .putDevid s t := by
  rcases execPutDevid_eq_next s t h with rfl | rfl | ⟨⟨-, hst, hroom⟩, hemit⟩
  · exact .raised _
  · exact .raised _
  · exact .of_emitted (by simp [State.streamOpen, hst]) (by simp) hroom (by simp)
      (fun hspan => .memWrite (by simpa using hspan)) hemit

theorem execPutHdr_effect (h : execPutHdr s = .next t) : CommandEffect .putHdr s t := by
  rcases execPutHdr_eq_next s t h with rfl | rfl | rfl | ⟨-, ⟨-, hst, hroom⟩, hemit⟩
  · exact .raised _
  · exact .raised _
  · exact .raised _
  · refine .of_emitted (by simp [State.streamOpen, hst]) (by simp) (by omega) (by simp) (fun hspan => ?_) hemit
    have hheader : KeepsFramer s (s.memWrite s.pos.toNat (hdrBytes s.blkid s.hlen)) := .memWrite (by simp; omega)
    have hbody := hheader.trans
      (.memWrite (a := s.pos.toNat + 12) (bs := List.replicate s.bodyLen 0) (by simp; omega))
    exact hbody.trans (.setCrc _ _)

theorem execPutBodycrc_effect (h : execPutBodycrc s = .next t) : CommandEffect .putBodycrc s t := by
  rcases execPutBodycrc_eq_next s t h with rfl | rfl | rfl | ⟨-, ⟨-, hst, hroom⟩, hemit⟩
  · exact .raised _
  · exact .raised _
  · exact .raised _
  · rw [Nat.add_assoc] at hemit
    refine .of_emitted (by simp [State.streamOpen, hst]) (by simp) hroom (by simp) (fun hspan => ?_) hemit
    have htrailer : KeepsFramer s (s.memWrite (s.pos.toNat + s.bodyLen) (wordBytes s.bodyCrc)) :=
      .memWrite (by simp; omega)
    exact htrailer.trans (.setCrc _ _)

theorem execPutEnd_effect (h : execPutEnd s = .next t) : CommandEffect .putEnd s t := by
  rcases execPutEnd_eq_next s t h with rfl | rfl | ⟨⟨-, hst, hroom⟩, hemit⟩
  · exact .raised _
  · exact .raised _
  · exact .of_emitted (by simp [State.streamOpen, hst]) (by simp) hroom (by simp)
      (fun hspan => .memWrite (by simpa using hspan)) hemit

theorem execGetDevid_effect (h : execGetDevid s = .next t) : CommandEffect .getDevid s t := by
  rcases execGetDevid_eq_next s t h with rfl | ⟨hmode, hst, rfl⟩ | ⟨⟨hmode, hst, hroom⟩, hread⟩
  · exact .raised _
  · exact .failed _ (.refl s) hmode (by simp [State.streamOpen, hst])
  · have hopen : s.streamOpen := by simp [State.streamOpen, hst]
    rcases hread with ⟨rfl, -⟩ | ⟨rfl, -⟩
    · exact .failed _ (.setDevid s _) hmode hopen
    · exact .advanced (.setDevid s _) hopen (by simp) hroom (by simp)

theorem execGetHdr_effect (h : execGetHdr s = .next t) : CommandEffect .getHdr s t := by
  rcases execGetHdr_eq_next s t h with rfl | ⟨hmode, hst, rfl⟩ | ⟨⟨hmode, hst, hroom⟩, hread⟩
  · exact .raised _
  · exact .failed _ (.refl s) hmode (by simp [State.streamOpen, hst])
  · have hopen : s.streamOpen := by simp [State.streamOpen, hst]
    have hfields := KeepsFramer.readHeader s s.hdrAtPos
    rcases hread with ⟨-, rfl⟩ | ⟨-, rfl⟩
    · rcases State.acceptSentinel_cases (s.readHeader s.hdrAtPos) with ⟨-, hend⟩ | ⟨-, hend⟩ <;> rw [hend]
      · exact .failed _ hfields hmode hopen
      · exact .advanced hfields hopen (by simp) hroom (by simp)
    · have hcrc := hfields.trans (.setCrc _ (crcOf (s.hdrAtPos.take 8)))
      rcases State.acceptHeader_cases ((s.readHeader s.hdrAtPos).setCrc (crcOf (s.hdrAtPos.take 8))) with
        ⟨k, -, hend⟩ | ⟨-, -, -, -, hend⟩ <;> rw [hend]
      · exact .failed _ hcrc hmode hopen
      · exact .advanced (hcrc.trans (.setSeen _ _)) hopen (by simp) hroom (by simp)

theorem execGetBody_effect (h : execGetBody s = .next t) : CommandEffect .getBody s t := by
  rcases execGetBody_eq_next s t h with rfl | ⟨hmode, hst, hfail⟩ | ⟨⟨hmode, hst, hroom⟩, es, -, -, rfl⟩
  · exact .raised _
  · have hopen : s.streamOpen := by simp [State.streamOpen, hst]
    rcases hfail with rfl | rfl
    · exact .failed _ (.refl s) hmode hopen
    · exact .failed _ (.refl s) hmode hopen
  · have hopen : s.streamOpen := by simp [State.streamOpen, hst]
    have hcrcs := KeepsFramer.setCrcs s (crcOf (s.memRead s.pos.toNat s.bodyLen))
      (wordOf (s.memRead (s.pos.toNat + s.bodyLen) 4))
    rcases State.acceptBody_cases s s.bodyLen es with ⟨-, hend⟩ | ⟨-, hend⟩ <;> rw [hend]
    · exact .failed _ hcrcs hmode hopen
    · rw [Nat.add_assoc s.pos.toNat]
      exact .advanced (hcrcs.trans (.countEntries _ _)) hopen (by simp) hroom (by simp)

/-- What a command can do, whichever it is (44_system.md R211). -/
theorem exec_effect {i : Instr} (h : exec i s = .next t) : CommandEffect i s t := by
  cases i with
  | nop =>
    obtain rfl : s.ok = t := Host.Outcome.next.inj h
    exact .completed (.refl s)
  | pack q => exact execPack_effect h
  | unpack q => exact execUnpack_effect h
  | crc32 => exact execCrc32_effect h
  | frBegin m => exact execFrBegin_effect h
  | putDevid => exact execPutDevid_effect h
  | putHdr => exact execPutHdr_effect h
  | putBodycrc => exact execPutBodycrc_effect h
  | putEnd => exact execPutEnd_effect h
  | getDevid => exact execGetDevid_effect h
  | getHdr => exact execGetHdr_effect h
  | getBody => exact execGetBody_effect h

end

/-! ### What an event and a step can do -/

/-- The next state of each pending event that answers one, and the condition on it (20_memory.md R60, 10_state.md R36). -/
inductive EventEffect : Event → State → State → Prop where
  | wrote {n v : Nat} {r : Reg} {s : State} (hr : Reg.ofNumber? n = some r) (hw : r.access ≠ .readOnly) :
      EventEffect (.op (.regWrite n v)) s (s.writeReg r v)
  | readRegister {n : Nat} {r : Reg} {s : State} (hr : Reg.ofNumber? n = some r) :
      EventEffect (.op (.regRead n)) s (s.answer (.register (s.readReg r)))
  | stored {a : Nat} {b : Byte} {s : State} (ha : a < s.bufBytes) :
      EventEffect (.op (.bufWrite a b)) s (s.putByte a b)
  | readByte {a : Nat} {s : State} (ha : a < s.bufBytes) :
      EventEffect (.op (.bufRead a)) s (s.answer (.byte (s.bufByte a)))
  | ran {w : Word} {i : Instr} {s t : State} (hw : decode w = .ok i) (ht : CommandEffect i s t) :
      EventEffect (.op (.cmd w)) s t
  | illegal {w : Word} {e : Illegal} {s : State} (hw : decode w = .error e) :
      EventEffect (.op (.cmd w)) s (s.raise .illegalCommand)
  | reset {s : State} : EventEffect .reset s s.afterReset

section
variable {s t : State}

theorem hostRegWrite_of_number {n v : Nat} {r : Reg} (hr : Reg.ofNumber? n = some r) (hw : r.access ≠ .readOnly) :
    hostRegWrite n v s = .next (s.writeReg r v) := by
  simp [hostRegWrite, hr, hw]

theorem hostRegWrite_of_readOnly {n v : Nat} {r : Reg} (hr : Reg.ofNumber? n = some r) (hw : r.access = .readOnly) :
    hostRegWrite n v s = .refused (.registerReadOnly n) := by
  simp [hostRegWrite, hr, hw]

theorem hostRegWrite_of_unassigned {n v : Nat} (hr : Reg.ofNumber? n = none) :
    hostRegWrite n v s = .refused (.registerUnassigned n) := by
  simp [hostRegWrite, hr]

theorem hostRegRead_of_number {n : Nat} {r : Reg} (hr : Reg.ofNumber? n = some r) :
    hostRegRead n s = .next (s.answer (.register (s.readReg r))) := by
  simp [hostRegRead, hr]

theorem hostRegRead_of_unassigned {n : Nat} (hr : Reg.ofNumber? n = none) :
    hostRegRead n s = .refused (.registerUnassigned n) := by
  simp [hostRegRead, hr]

theorem hostRegWrite_effect {n v : Nat} (h : hostRegWrite n v s = .next t) :
    EventEffect (.op (.regWrite n v)) s t := by
  cases hr : Reg.ofNumber? n with
  | none => simp [hostRegWrite_of_unassigned hr] at h
  | some r =>
    by_cases hw : r.access = .readOnly
    · simp [hostRegWrite_of_readOnly hr hw] at h
    · obtain rfl := Host.Outcome.next.inj ((hostRegWrite_of_number hr hw).symm.trans h)
      exact .wrote hr hw

theorem hostRegRead_effect {n : Nat} (h : hostRegRead n s = .next t) : EventEffect (.op (.regRead n)) s t := by
  cases hr : Reg.ofNumber? n with
  | none => simp [hostRegRead_of_unassigned hr] at h
  | some r =>
    obtain rfl := Host.Outcome.next.inj ((hostRegRead_of_number hr).symm.trans h)
    exact .readRegister hr

theorem hostBufWrite_effect {a : Nat} {b : Byte} (h : hostBufWrite a b s = .next t) :
    EventEffect (.op (.bufWrite a b)) s t := by
  unfold hostBufWrite at h
  split_ifs at h with ha
  obtain rfl := Host.Outcome.next.inj h
  exact .stored ha

theorem hostBufRead_effect {a : Nat} (h : hostBufRead a s = .next t) : EventEffect (.op (.bufRead a)) s t := by
  unfold hostBufRead at h
  split_ifs at h with ha
  obtain rfl := Host.Outcome.next.inj h
  exact .readByte ha

theorem hostCmd_effect {w : Word} (h : hostCmd w s = .next t) : EventEffect (.op (.cmd w)) s t := by
  unfold hostCmd at h
  split at h
  next i hw => exact .ran hw (exec_effect h)
  next e hw =>
    obtain rfl : s.raise .illegalCommand = t := Host.Outcome.next.inj h
    exact .illegal hw

theorem takeEvent_effect {e : Event} (h : takeEvent e s = .next t) : EventEffect e s t := by
  cases e with
  | reset =>
    obtain rfl : s.afterReset = t := Host.Outcome.next.inj h
    exact .reset
  | op o =>
    cases o with
    | regWrite n v => exact hostRegWrite_effect h
    | regRead n => exact hostRegRead_effect h
    | bufWrite a b => exact hostBufWrite_effect h
    | bufRead a => exact hostBufRead_effect h
    | cmd w => exact hostCmd_effect h

theorem step_of_idle (h : s.pending = []) : step s = .next s := by
  simp [step, takeNext, h]

theorem step_of_pending {e : Event} {rest : List Event} (h : s.pending = e :: rest) :
    step s = takeEvent e (s.taken rest) := by
  simp [step, takeNext, h]

/-- What a step can do: nothing when idle, else what the oldest pending event does (60_exceptions.md R236). -/
theorem step_effect (h : step s = .next t) :
    (s.pending = [] ∧ t = s) ∨ ∃ e rest, s.pending = e :: rest ∧ EventEffect e (s.taken rest) t := by
  cases hp : s.pending with
  | nil => exact .inl ⟨rfl, Host.Outcome.next.inj (h.symm.trans (step_of_idle hp))⟩
  | cons e rest => exact .inr ⟨e, rest, rfl, takeEvent_effect ((step_of_pending hp).symm.trans h)⟩

end

/-! ### The invariants (10_state.md R43) -/

section
variable {s t u : State}

theorem KeepsFramer.inv (hu : KeepsFramer s u) (h : s.Inv) : u.Inv where
  pos_le_limit := by rw [hu.pos, hu.limit]; exact h.pos_le_limit
  frstate_legal := by rw [hu.frstate]; exact h.frstate_legal
  frmode_legal := by rw [hu.frmode]; exact h.frmode_legal
  status_legal := by rw [hu.status]; exact h.status_legal
  sticky_codes := by rw [hu.esticky]; exact h.sticky_codes
  limit_in_buf := by rw [hu.frmode, hu.frstate, hu.limit, hu.bufBytes]; exact h.limit_in_buf
  failed_in_unpack := by rw [hu.frstate, hu.frmode]; exact h.failed_in_unpack
  buf_wf := hu.buf_wf h.buf_wf
  buf_exists c hc := by
    rw [hu.bufBytes]
    exact (hu.buf_exists c hc).elim (h.buf_exists c) id

theorem State.Inv.ok (h : s.Inv) : s.ok.Inv := { h with status_legal := .inl rfl }

theorem State.Inv.raise (h : s.Inv) (k : ErrorKind) : (s.raise k).Inv :=
  { h with
    status_legal := .inr ⟨k, rfl⟩
    sticky_codes := stickySet_reserved s.esticky k h.sticky_codes }

theorem State.streamOpen.ne_idle (h : s.streamOpen) : s.frstate ≠ FrState.idle := by
  intro hidle
  simp [State.streamOpen, hidle] at h

/-- A framing error of a GET command: S_FAILED, in mode UNPACK (43_framer_parse.md R186, 44_system.md R213). -/
theorem State.Inv.fail (h : s.Inv) (k : ErrorKind) (hmode : s.frmode = FrMode.unpack) (hopen : s.streamOpen) :
    (s.fail k).Inv :=
  { h.raise k with
    frstate_legal := by rw [State.fail_frstate]; decide
    limit_in_buf := fun hlength _ => h.limit_in_buf hlength hopen.ne_idle
    failed_in_unpack := fun _ => hmode }

/-- Below LIMIT the cursor does not wrap (10_state.md R38). -/
theorem State.advance_pos_toNat {n : Nat} (st : BitVec 3) (hroom : s.pos.toNat + n ≤ s.limit.toNat) :
    (u.advance (s.pos.toNat + n) st).pos.toNat = s.pos.toNat + n := by
  rw [State.advance_pos, BitVec.toNat_ofNat, Nat.mod_eq_of_lt (Nat.lt_of_le_of_lt hroom s.limit.isLt)]

theorem State.Inv.advance (h : s.Inv) {n : Nat} {st : BitVec 3} (hopen : s.streamOpen)
    (hroom : s.pos.toNat + n ≤ s.limit.toNat) (hst : st ∈ [FrState.hdr, FrState.body, FrState.done]) :
    (s.advance (s.pos.toNat + n) st).Inv :=
  have hst : st.toNat ≤ 5 ∧ st ≠ FrState.failed := by
    revert st
    decide
  { h with
    pos_le_limit := (State.advance_pos_toNat st hroom).trans_le hroom
    frstate_legal := hst.1
    limit_in_buf := fun hlength _ => h.limit_in_buf hlength hopen.ne_idle
    failed_in_unpack := fun hfailed => absurd hfailed hst.2 }

/-- FR_BEGIN opens a stream `[BASE, lim)` (42_framer_emit.md R160). -/
theorem State.Inv.beginStream (h : s.Inv) {m : BitVec 2} {lim : Nat} (hm : m.toNat ≤ 2) (hbase : s.base.toNat ≤ lim)
    (hlim : lim < 2 ^ 32) (hbuf : m ≠ FrMode.length → lim ≤ s.bufBytes) : (s.beginStream m lim).Inv :=
  have hlimit : (s.beginStream m lim).limit.toNat = lim := by
    rw [State.beginStream_limit, BitVec.toNat_ofNat, Nat.mod_eq_of_lt hlim]
  { h with
    pos_le_limit := hbase.trans_eq hlimit.symm
    frstate_legal := by rw [State.beginStream_frstate]; decide
    frmode_legal := hm
    limit_in_buf := fun hlength _ => hlimit.trans_le (hbuf hlength)
    failed_in_unpack := fun hfailed => by rw [State.beginStream_frstate] at hfailed; exact absurd hfailed (by decide) }

theorem CommandEffect.inv {i : Instr} (ht : CommandEffect i s t) (h : s.Inv) : t.Inv := by
  cases ht with
  | raised k => exact h.raise k
  | failed k hu hmode hopen =>
    exact (hu.inv h).fail k (hu.frmode.trans hmode) (by rwa [State.streamOpen, hu.frstate])
  | completed hu => exact (hu.inv h).ok
  | advanced hu hopen hn hroom hst =>
    rw [← hu.pos]
    exact ((hu.inv h).advance (by rwa [State.streamOpen, hu.frstate]) (by rwa [hu.pos, hu.limit]) hst).ok
  | began hm hbase hlim hbuf => exact (h.beginStream hm hbase hlim hbuf).ok

theorem State.Inv.writeReg (h : s.Inv) (r : Reg) (v : Nat) : (s.writeReg r v).Inv := by
  by_cases hr : r = .esticky
  · subst hr
    exact { h with sticky_codes := stickyClear_reserved s.esticky (BitVec.ofNat 32 v) h.sticky_codes }
  · exact (KeepsFramer.writeReg s r v hr).inv h

/-- Every register is 0 and BUF lists no byte (70_reset_and_hazards.md R251). -/
theorem State.reset_inv : State.reset.Inv where
  pos_le_limit := Nat.le_refl 0
  frstate_legal := Nat.zero_le 5
  frmode_legal := Nat.zero_le 2
  status_legal := .inl rfl
  sticky_codes := BitVec.zero_and
  limit_in_buf _ hidle := absurd rfl hidle
  failed_in_unpack hfailed := absurd hfailed (by decide)
  buf_wf := .nil
  buf_exists _ hc := absurd hc List.not_mem_nil

theorem State.afterReset_inv (s : State) : s.afterReset.Inv :=
  { State.reset_inv with
    limit_in_buf := fun _ hidle => absurd rfl hidle
    buf_exists := fun _ hc => absurd hc List.not_mem_nil }

theorem EventEffect.inv {e : Event} (ht : EventEffect e s t) (h : s.Inv) : t.Inv := by
  cases ht with
  | wrote => exact h.writeReg _ _
  | readRegister => exact (KeepsFramer.answer s _).inv h
  | stored ha => exact (KeepsFramer.putByte ha _).inv h
  | readByte => exact (KeepsFramer.answer s _).inv h
  | ran hw ht => exact ht.inv h
  | illegal => exact h.raise _
  | reset => exact State.afterReset_inv s

end

/-- Settles O13: nothing is listed in BUF and the framer is idle, so no clause asks more than that 0 is legal. -/
theorem resetSatisfiesTheInvariants : Obligations.ResetSatisfiesTheInvariants := State.reset_inv

/-- Settles O14, by the ends of a command and of an event, each of which keeps every clause of `State.Inv`. -/
theorem stepKeepsTheInvariants : Obligations.StepKeepsTheInvariants := by
  intro s t h hstep
  rcases step_effect hstep with ⟨-, rfl⟩ | ⟨e, rest, -, ht⟩
  · exact h
  · exact ht.inv ((KeepsFramer.taken s rest).inv h)

/-! ### The parameters (10_state.md R20) -/

theorem CommandEffect.params {i : Instr} {s t : State} (ht : CommandEffect i s t) : t.params = s.params := by
  cases ht with
  | raised k => exact State.raise_params s k
  | failed k hu => exact hu.params
  | completed hu => exact hu.params
  | advanced hu => exact hu.params
  | began => rfl

@[simp] theorem State.writeReg_params (s : State) (r : Reg) (v : Nat) : (s.writeReg r v).params = s.params := by
  cases r <;> rfl

theorem EventEffect.params {e : Event} {s t : State} (ht : EventEffect e s t) : t.params = s.params := by
  cases ht with
  | wrote => exact State.writeReg_params s _ _
  | readRegister => exact State.answer_params s _
  | stored => exact State.putByte_params s _ _
  | readByte => exact State.answer_params s _
  | ran hw ht => exact ht.params
  | illegal => exact State.raise_params s _
  | reset => exact State.afterReset_params s

/-- Settles O16: no end of a command or of an event writes the parameters, the reset event included. -/
theorem stepKeepsTheParameters : Obligations.StepKeepsTheParameters := by
  intro s t hstep
  rcases step_effect hstep with ⟨-, rfl⟩ | ⟨e, rest, -, ht⟩
  · rfl
  · exact ht.params.trans (State.taken_params s rest)

/-! ### The cursor (10_state.md R38) -/

/-- Settles O22: only the end `advanced` moves POS, and LIMIT bounds where it goes. -/
theorem cursorMovesByWholeElements : Obligations.CursorMovesByWholeElements := by
  intro i s t _ hexec hi
  cases exec_effect hexec with
  | raised k => exact ⟨0, by simp, rfl⟩
  | failed k hu => exact ⟨0, by simp, congrArg BitVec.toNat hu.pos⟩
  | completed hu => exact ⟨0, by simp, congrArg BitVec.toNat hu.pos⟩
  | @advanced _ _ u n st hu hopen hn hroom =>
    exact ⟨n, List.mem_cons_of_mem 0 hn, State.advance_pos_toNat (u := u) st hroom⟩
  | began => exact absurd rfl (hi _)

/-! ### The host's registers (10_state.md R21, R36) -/

theorem State.readReg_lt (s : State) (r : Reg) : s.readReg r < 2 ^ r.width := by
  cases r <;> exact BitVec.isLt _

theorem Reg.ofNumber?_of_gt : ∀ n, 17 < n → Reg.ofNumber? n = none
  | _ + 18, _ => rfl

/-- A host write changes the register it names, no other and no byte (R36). -/
theorem State.writeReg_changesOnly (s : State) (r : Reg) (v : Nat) : ChangesOnly [r] noByte s (s.writeReg r v) where
  regs_kept x hx := State.writeReg_readReg_other s r x v (by simpa using hx)
  bytes_kept _ _ := by cases r <;> rfl
  params_kept := State.writeReg_params s r v
  resets_kept := by cases r <;> rfl
  pending_kept := by cases r <;> rfl
  reply_kept := by cases r <;> rfl

/-- Settles O9: the table row by row, then the fields register by register. -/
theorem registerMapIsTheSpecs : Obligations.RegisterMapIsTheSpecs :=
  ⟨by decide, Reg.ofNumber?_of_gt, State.readReg_lt,
    fun _ => ⟨rfl, rfl, rfl, rfl, rfl, rfl, rfl, rfl, rfl, rfl, rfl, rfl, rfl, rfl, rfl, rfl, rfl, rfl⟩⟩

/-- Settles O10, clause by clause, from what the host port answers for each number. -/
theorem hostRegisterAccess : Obligations.HostRegisterAccess := by
  intro s n v rest
  refine ⟨fun r hp hr hw => ?_, fun hp => ?_, fun r hp hr => ?_, fun r hp hr hw => ?_, fun hn hp => ?_⟩
  · have hstep := (step_of_pending hp).trans (hostRegWrite_of_number (v := v) hr (by simp [hw]))
    exact ⟨_, hstep, State.writeReg_readReg_same _ r v hw, State.writeReg_changesOnly _ r v⟩
  · have hstep := (step_of_pending hp).trans (hostRegWrite_of_number (n := 14) (v := v) rfl (by decide))
    exact ⟨_, hstep, rfl, State.writeReg_changesOnly _ .esticky v⟩
  · have hkept : (s.taken rest).readReg r = s.readReg r := by cases r <;> rfl
    have hstep := (step_of_pending hp).trans (hostRegRead_of_number hr)
    rw [hkept] at hstep
    exact hstep
  · exact (step_of_pending hp).trans (hostRegWrite_of_readOnly hr hw)
  · have hnone := Reg.ofNumber?_of_gt n hn
    rcases hp with hp | hp
    · exact (step_of_pending hp).trans (hostRegWrite_of_unassigned hnone)
    · exact (step_of_pending hp).trans (hostRegRead_of_unassigned hnone)

end Sys2Proof.Machine
end

section
/-! PROOFS. The statements of 20_memory.md: the host's buffer port, no access beyond BUF, the layouts of the quirks. -/

namespace Sys2Proof.Machine

/-! ### The layouts of the quirks (20_memory.md R64, R67) -/

section
variable {b n : Nat} {q : Quirks}

/-- No quirks: the boxes lie from the last byte to the first. -/
theorem physAddr_of_plain (hle : q.le = false) (hlsw : q.lsw = false) : physAddr b n q = n - b - 1 := by
  simp [physAddr, hle, hlsw]

/-- LITTLE_ENDIAN: the words in reversed order, the bytes of a word in the order of the boxes. -/
theorem physAddr_of_le (hle : q.le = true) (hlsw : q.lsw = false) (hn : n % 4 = 0) (hb : b < n) :
    physAddr b n q = (n / 4 - b / 4 - 1) * 4 + b % 4 := by
  simp only [physAddr, hle, hlsw, if_true, Bool.false_eq_true, if_false]
  omega

/-- LSW32_IS_FIRST: the words in the order of the boxes, the bytes of a word in reversed order. -/
theorem physAddr_of_lsw (hle : q.le = false) (hlsw : q.lsw = true) (hn : n % 4 = 0) (hb : b < n) :
    physAddr b n q = b / 4 * 4 + (3 - b % 4) := by
  simp only [physAddr, hle, hlsw, if_true, Bool.false_eq_true, if_false]
  omega

/-- Both: the bytes in the order of the boxes. -/
theorem physAddr_of_le_lsw (hle : q.le = true) (hlsw : q.lsw = true) (hn : n % 4 = 0) (hb : b < n) :
    physAddr b n q = b := by
  simp only [physAddr, hle, hlsw, if_true]
  omega

/-- Each layout is its own inverse: reversing twice, the bytes, the words or the bytes of each word, changes nothing. -/
theorem physAddr_physAddr (hq : (q.le ∨ q.lsw) → n % 4 = 0) (hb : b < n) : physAddr (physAddr b n q) n q = b := by
  have hlt := physAddr_lt b n q hq hb
  cases hle : q.le <;> cases hlsw : q.lsw
  case false.false => rw [physAddr_of_plain hle hlsw, physAddr_of_plain hle hlsw]; omega
  case true.false =>
    have hn := hq (.inl hle)
    rw [physAddr_of_le hle hlsw hn hlt, physAddr_of_le hle hlsw hn hb]; omega
  case false.true =>
    have hn := hq (.inr hlsw)
    rw [physAddr_of_lsw hle hlsw hn hlt, physAddr_of_lsw hle hlsw hn hb]; omega
  case true.true =>
    have hn := hq (.inl hle)
    rw [physAddr_of_le_lsw hle hlsw hn hlt, physAddr_of_le_lsw hle hlsw hn hb]

end

/-- Settles O32: `PhysAddr` stays in the buffer and is its own inverse there, so it is one to one and onto. -/
theorem physAddrIsABijection : Obligations.PhysAddrIsABijection := by
  intro n q hq
  refine ⟨fun b hb => physAddr_lt b n q hq hb, fun b b' hb hb' heq => ?_,
    fun a ha => ⟨physAddr a n q, physAddr_lt a n q hq ha, physAddr_physAddr hq ha⟩⟩
  calc b = physAddr (physAddr b n q) n q := (physAddr_physAddr hq hb).symm
    _ = physAddr (physAddr b' n q) n q := by rw [heq]
    _ = b' := physAddr_physAddr hq hb'

/-- Settles O33: the table is eight closed values, `Pack` evaluated at `n = 8` under each quirk set. -/
theorem eightLayouts : Obligations.EightLayouts := by
  intro m
  cases m with
  | false => exact ⟨by decide, by decide, by decide, by decide⟩
  | true => exact ⟨by decide, by decide, by decide, by decide⟩

/-! ### The host's buffer port (20_memory.md R60, R61) -/

section
variable {s : State} {a : Nat} {b : Byte}

theorem hostBufWrite_of_lt (ha : a < s.bufBytes) : hostBufWrite a b s = .next (s.putByte a b) := if_pos ha

theorem hostBufWrite_of_le (ha : s.bufBytes ≤ a) : hostBufWrite a b s = .refused (.bufferBeyondEnd a) :=
  if_neg (Nat.not_lt.2 ha)

theorem hostBufRead_of_lt (ha : a < s.bufBytes) : hostBufRead a s = .next (s.answer (.byte (s.bufByte a))) := if_pos ha

theorem hostBufRead_of_le (ha : s.bufBytes ≤ a) : hostBufRead a s = .refused (.bufferBeyondEnd a) :=
  if_neg (Nat.not_lt.2 ha)

end

@[simp] theorem State.putByte_readReg (s : State) (a : Nat) (b : Byte) (r : Reg) :
    (s.putByte a b).readReg r = s.readReg r := by
  cases r <;> rfl

/-- A stored byte changes its own address, no other and no register (R72). -/
theorem State.putByte_changesOnly (s : State) (a : Nat) (b : Byte) : ChangesOnly [] (fun x => x = a) s (s.putByte a b) where
  regs_kept r _ := State.putByte_readReg s a b r
  bytes_kept x hx := (State.bufByte_putByte s a x b).trans (if_neg hx)
  params_kept := State.putByte_params s a b
  resets_kept := State.putByte_resets s a b
  pending_kept := State.putByte_pending s a b
  reply_kept := State.putByte_reply s a b

/-- Settles O11, clause by clause, from what the host port answers for each address. -/
theorem hostBufferAccess : Obligations.HostBufferAccess := by
  intro s a b rest
  refine ⟨fun hp ha => ?_, fun hp ha => ?_, fun ha hp => ?_⟩
  · have hstep := (step_of_pending hp).trans (hostBufWrite_of_lt (s := s.taken rest) ha)
    exact ⟨_, hstep, (State.bufByte_putByte _ a a b).trans (if_pos rfl), State.putByte_changesOnly _ a b⟩
  · exact (step_of_pending hp).trans (hostBufRead_of_lt (s := s.taken rest) ha)
  · rcases hp with hp | hp
    · exact (step_of_pending hp).trans (hostBufWrite_of_le (s := s.taken rest) ha)
    · exact (step_of_pending hp).trans (hostBufRead_of_le (s := s.taken rest) ha)

/-! ### No access beyond BUF (20_memory.md R74) -/

/-- The outcome is a next state: neither a fault nor a refusal. -/
def Answers (r : Result) : Prop := ∃ t, r = .next t

section
variable {s : State} {r : Result}

theorem answers_next (t : State) : Answers (.next t) := ⟨t, rfl⟩

theorem Answers.safe (h : Answers r) : Safe r := by
  obtain ⟨t, rfl⟩ := h
  nofun

theorem safe_refused (e : Refusal) : Safe (.refused e) := nofun

theorem State.within_answers {a n : Nat} (hspan : a + n ≤ s.bufBytes) (hr : Answers r) : Answers (s.within a n r) := by
  rwa [State.within_of_le s a n r hspan]

/-- A PUT command's element is stored in mode PACK only, so only there must it lie in BUF (R73). -/
theorem State.emit_answers {n : Nat} {write finish : State → State}
    (hspan : s.frmode = FrMode.pack → s.pos.toNat + n ≤ s.bufBytes) : Answers (s.emit n write finish) := by
  unfold State.emit
  split_ifs with hmode
  · exact State.within_answers (hspan hmode) (answers_next _)
  · exact answers_next _

/-- Below LIMIT an open stream lies in BUF, where the mode has a stream at all (10_state.md R43). -/
theorem State.Inv.element_in_buf (h : s.Inv) {n : Nat} (hmode : s.frmode ≠ FrMode.length) (hopen : s.streamOpen)
    (hroom : s.pos.toNat + n ≤ s.limit.toNat) : s.pos.toNat + n ≤ s.bufBytes :=
  hroom.trans (h.limit_in_buf hmode hopen.ne_idle)

/-- A PUT command in sequence, its element ending at or below LIMIT, stores only bytes of BUF. -/
theorem State.Inv.emit_answers (h : s.Inv) {st : BitVec 3} {n : Nat} {write finish : State → State}
    (hready : s.putReady st = true) (hst : st ∈ [FrState.devid, FrState.hdr, FrState.body])
    (hroom : s.pos.toNat + n ≤ s.limit.toNat) : Answers (s.emit n write finish) := by
  obtain ⟨-, rfl⟩ := (s.putReady_iff st).1 hready
  exact State.emit_answers fun hmode => h.element_in_buf (by rw [hmode]; decide) hst hroom

/-- A GET command in sequence, its element ending at or below LIMIT, reads only bytes of BUF. -/
theorem State.Inv.within_answers (h : s.Inv) {st : BitVec 3} {n : Nat} (hready : s.getReady st = true)
    (hst : st ∈ [FrState.devid, FrState.hdr, FrState.body]) (hroom : s.pos.toNat + n ≤ s.limit.toNat)
    (hr : Answers r) : Answers (s.within s.pos.toNat n r) := by
  obtain ⟨hmode, rfl⟩ := (s.getReady_iff st).1 hready
  exact State.within_answers (h.element_in_buf (by rw [hmode]; decide) hst hroom) hr

theorem execPack_answers (q : Quirks) (s : State) : Answers (execPack q s) := by
  unfold execPack
  split <;> exact answers_next _

theorem execUnpack_answers (q : Quirks) (s : State) : Answers (execUnpack q s) := by
  unfold execUnpack
  split <;> exact answers_next _

theorem execCrc32_answers (s : State) : Answers (execCrc32 s) := by
  unfold execCrc32
  dsimp only
  split_ifs <;> exact answers_next _

theorem execFrBegin_answers (m : BitVec 2) (s : State) : Answers (execFrBegin m s) := by
  unfold execFrBegin
  split_ifs <;> exact answers_next _

theorem execPutDevid_answers (h : s.Inv) : Answers (execPutDevid s) := by
  unfold execPutDevid
  dsimp only
  split_ifs with hready hroom
  · exact answers_next _
  · exact answers_next _
  · exact h.emit_answers (by simpa using hready) (by simp) (by omega)

theorem execPutHdr_answers (h : s.Inv) : Answers (execPutHdr s) := by
  unfold execPutHdr
  dsimp only
  split_ifs with hready hzero hroom
  · exact answers_next _
  · exact answers_next _
  · exact answers_next _
  · exact h.emit_answers (by simpa using hready) (by simp) (by omega)

theorem execPutBodycrc_answers (h : s.Inv) : Answers (execPutBodycrc s) := by
  unfold execPutBodycrc
  dsimp only
  split_ifs with hready hzero hroom
  · exact answers_next _
  · exact answers_next _
  · exact answers_next _
  · exact h.emit_answers (by simpa using hready) (by simp) (by omega)

theorem execPutEnd_answers (h : s.Inv) : Answers (execPutEnd s) := by
  unfold execPutEnd
  dsimp only
  split_ifs with hready hroom
  · exact answers_next _
  · exact answers_next _
  · exact h.emit_answers (by simpa using hready) (by simp) (by omega)

theorem execGetDevid_answers (h : s.Inv) : Answers (execGetDevid s) := by
  unfold execGetDevid
  dsimp only
  split_ifs with hready hroom hknown
  · exact answers_next _
  · exact answers_next _
  · exact h.within_answers (by simpa using hready) (by simp) (by omega) (answers_next _)
  · exact h.within_answers (by simpa using hready) (by simp) (by omega) (answers_next _)

theorem execGetHdr_answers (h : s.Inv) : Answers (execGetHdr s) := by
  unfold execGetHdr
  dsimp only
  split_ifs with hready hroom hzero
  · exact answers_next _
  · exact answers_next _
  · exact h.within_answers (by simpa using hready) (by simp) (by omega) (answers_next _)
  · exact h.within_answers (by simpa using hready) (by simp) (by omega) (answers_next _)

theorem execGetBody_answers (h : s.Inv) : Answers (execGetBody s) := by
  unfold execGetBody
  cases entrySize s.params s.devid s.blkid with
  | none =>
    dsimp only
    split_ifs with hready
    · exact answers_next _
    · exact answers_next _
  | some es =>
    dsimp only
    split_ifs with hready hentries hroom
    · exact answers_next _
    · exact answers_next _
    · exact answers_next _
    · exact h.within_answers (by simpa using hready) (by simp) (by omega) (answers_next _)

/-- From a state with the invariants every command answers a next state (60_exceptions.md R220). -/
theorem exec_answers (i : Instr) (h : s.Inv) : Answers (exec i s) := by
  cases i with
  | nop => exact answers_next _
  | pack q => exact execPack_answers q s
  | unpack q => exact execUnpack_answers q s
  | crc32 => exact execCrc32_answers s
  | frBegin m => exact execFrBegin_answers m s
  | putDevid => exact execPutDevid_answers h
  | putHdr => exact execPutHdr_answers h
  | putBodycrc => exact execPutBodycrc_answers h
  | putEnd => exact execPutEnd_answers h
  | getDevid => exact execGetDevid_answers h
  | getHdr => exact execGetHdr_answers h
  | getBody => exact execGetBody_answers h

theorem hostRegWrite_safe (n v : Nat) (s : State) : Safe (hostRegWrite n v s) := by
  cases hr : Reg.ofNumber? n with
  | none => rw [hostRegWrite_of_unassigned hr]; exact safe_refused _
  | some r =>
    by_cases hw : r.access = .readOnly
    · rw [hostRegWrite_of_readOnly hr hw]; exact safe_refused _
    · rw [hostRegWrite_of_number hr hw]; exact (answers_next _).safe

theorem hostRegRead_safe (n : Nat) (s : State) : Safe (hostRegRead n s) := by
  cases hr : Reg.ofNumber? n with
  | none => rw [hostRegRead_of_unassigned hr]; exact safe_refused _
  | some r => rw [hostRegRead_of_number hr]; exact (answers_next _).safe

theorem hostBufWrite_safe (a : Nat) (b : Byte) (s : State) : Safe (hostBufWrite a b s) := by
  rcases Nat.lt_or_ge a s.bufBytes with ha | ha
  · rw [hostBufWrite_of_lt ha]; exact (answers_next _).safe
  · rw [hostBufWrite_of_le ha]; exact safe_refused _

theorem hostBufRead_safe (a : Nat) (s : State) : Safe (hostBufRead a s) := by
  rcases Nat.lt_or_ge a s.bufBytes with ha | ha
  · rw [hostBufRead_of_lt ha]; exact (answers_next _).safe
  · rw [hostBufRead_of_le ha]; exact safe_refused _

theorem hostCmd_answers (w : Word) (h : s.Inv) : Answers (hostCmd w s) := by
  unfold hostCmd
  split
  · exact exec_answers _ h
  · exact answers_next _

theorem takeEvent_safe (e : Event) (h : s.Inv) : Safe (takeEvent e s) := by
  cases e with
  | reset => exact (answers_next _).safe
  | op o =>
    cases o with
    | regWrite n v => exact hostRegWrite_safe n v s
    | regRead n => exact hostRegRead_safe n s
    | bufWrite a b => exact hostBufWrite_safe a b s
    | bufRead a => exact hostBufRead_safe a s
    | cmd w => exact (hostCmd_answers w h).safe

end

/-- Settles O15: a command from `State.Inv` reaches only bytes below LIMIT, which lies in BUF; the host's own operations
are at worst refused. -/
theorem noStepLeavesBuf : Obligations.NoStepLeavesBuf := by
  intro s h
  cases hp : s.pending with
  | nil => rw [step_of_idle hp]; exact (answers_next s).safe
  | cons e rest => rw [step_of_pending hp]; exact takeEvent_safe e ((KeepsFramer.taken s rest).inv h)

end Sys2Proof.Machine
end

section
/-! PROOFS. The statements of 30_encoding.md. A command word is its five fields (R85); the decoder, the encoder, the
opcode table's rows and the list of illegal words are each read as conditions on these fields, and compared there. -/

namespace Sys2Proof

/-! ### The fields of a word (R85) -/

section
variable (v w : Word)

theorem opcOf_toNat : (opcOf w).toNat = w.toNat % 256 := by simp [opcOf]

theorem quirkBitsOf_toNat : (quirkBitsOf w).toNat = w.toNat / 2 ^ 8 % 8 := by
  simp [quirkBitsOf, Nat.shiftRight_eq_div_pow]

theorem q3Of_toNat : (q3Of w).toNat = w.toNat / 2 ^ 11 % 2 := by
  simp [q3Of, Nat.shiftRight_eq_div_pow]

theorem modeOf_toNat : (modeOf w).toNat = w.toNat / 2 ^ 12 % 4 := by
  simp [modeOf, Nat.shiftRight_eq_div_pow]

theorem rsvOf_toNat : (rsvOf w).toNat = w.toNat / 2 ^ 14 := by
  have hw := w.isLt
  simp only [rsvOf, BitVec.extractLsb'_toNat, Nat.shiftRight_eq_div_pow]
  omega

/-- The fields leave no bit of a word out. -/
theorem word_toNat_eq_fields :
    w.toNat = (rsvOf w).toNat * 2 ^ 14 + (modeOf w).toNat * 2 ^ 12 + (q3Of w).toNat * 2 ^ 11
      + (quirkBitsOf w).toNat * 2 ^ 8 + (opcOf w).toNat := by
  rw [rsvOf_toNat, modeOf_toNat, q3Of_toNat, quirkBitsOf_toNat, opcOf_toNat]
  omega

/-- Two words with the same fields are the same word. -/
theorem word_eq_iff_fields :
    v = w ↔ rsvOf v = rsvOf w ∧ q3Of v = q3Of w ∧ opcOf v = opcOf w ∧ quirkBitsOf v = quirkBitsOf w ∧
      modeOf v = modeOf w := by
  constructor
  · rintro rfl
    exact ⟨rfl, rfl, rfl, rfl, rfl⟩
  · rintro ⟨hrsv, hq3, hopc, hquirks, hmode⟩
    apply BitVec.eq_of_toNat_eq
    rw [word_toNat_eq_fields v, word_toNat_eq_fields w, hrsv, hq3, hopc, hquirks, hmode]

@[simp] theorem opcOf_and : opcOf (v &&& w) = opcOf v &&& opcOf w := BitVec.extractLsb'_and
@[simp] theorem quirkBitsOf_and : quirkBitsOf (v &&& w) = quirkBitsOf v &&& quirkBitsOf w := BitVec.extractLsb'_and
@[simp] theorem q3Of_and : q3Of (v &&& w) = q3Of v &&& q3Of w := BitVec.extractLsb'_and
@[simp] theorem modeOf_and : modeOf (v &&& w) = modeOf v &&& modeOf w := BitVec.extractLsb'_and
@[simp] theorem rsvOf_and : rsvOf (v &&& w) = rsvOf v &&& rsvOf w := BitVec.extractLsb'_and

end

section
variable (mode : BitVec 2) (q : BitVec 3) (opc : BitVec 8)

@[simp] theorem opcOf_commandWord : opcOf (commandWord mode q opc) = opc :=
  BitVec.extractLsb'_append_eq_right

@[simp] theorem quirkBitsOf_commandWord : quirkBitsOf (commandWord mode q opc) = q := by
  unfold quirkBitsOf commandWord
  rw [BitVec.extractLsb'_append_eq_of_le (by decide), BitVec.extractLsb'_append_eq_right]

@[simp] theorem q3Of_commandWord : q3Of (commandWord mode q opc) = 0 := by
  unfold q3Of commandWord
  rw [BitVec.extractLsb'_append_eq_of_le (by decide), BitVec.extractLsb'_append_eq_of_le (by decide),
    BitVec.extractLsb'_append_eq_right]
  rfl

@[simp] theorem modeOf_commandWord : modeOf (commandWord mode q opc) = mode := by
  unfold modeOf commandWord
  rw [BitVec.extractLsb'_append_eq_of_le (by decide), BitVec.extractLsb'_append_eq_of_le (by decide),
    BitVec.extractLsb'_append_eq_of_le (by decide), BitVec.extractLsb'_append_eq_right]

@[simp] theorem rsvOf_commandWord : rsvOf (commandWord mode q opc) = 0 := by
  unfold rsvOf commandWord
  rw [BitVec.extractLsb'_append_eq_of_le (by decide), BitVec.extractLsb'_append_eq_of_le (by decide),
    BitVec.extractLsb'_append_eq_of_le (by decide), BitVec.extractLsb'_append_eq_left]
  rfl

end

/-! ### The fields of a command (R90, R92, R93) -/

@[simp] theorem Quirks.ofBits_toBits (q : Quirks) : Quirks.ofBits q.toBits = q := by
  obtain ⟨m, e, l⟩ := q
  cases m <;> cases e <;> cases l <;> rfl

@[simp] theorem Quirks.toBits_ofBits (b : BitVec 3) : (Quirks.ofBits b).toBits = b := by
  revert b
  decide

/-- The `OPC` field of a command's word. -/
def Instr.opc (i : Instr) : BitVec 8 :=
  match i with
  | .nop => 0x00
  | .pack _ => 0x02
  | .unpack _ => 0x03
  | .crc32 => 0x04
  | .frBegin _ => 0x10
  | .putDevid => 0x11
  | .putHdr => 0x12
  | .putBodycrc => 0x13
  | .putEnd => 0x14
  | .getDevid => 0x19
  | .getHdr => 0x1A
  | .getBody => 0x1B

/-- The `Q` field of a command's word. -/
def Instr.quirkBits (i : Instr) : BitVec 3 :=
  match i with
  | .pack q | .unpack q => q.toBits
  | _ => 0

/-- The `MODE` field of a command's word. -/
def Instr.modeBits (i : Instr) : BitVec 2 :=
  match i with
  | .frBegin mode => mode
  | _ => 0

theorem encode_eq_commandWord (i : Instr) : encode i = commandWord i.modeBits i.quirkBits i.opc := by
  cases i <;> rfl

theorem Instr.wellFormed_iff (i : Instr) : i.wellFormed = true ↔ i.modeBits ≠ 3 := by
  cases i with
  | frBegin mode => simp [Instr.wellFormed, Instr.modeBits]
  | _ => simp [Instr.wellFormed, Instr.modeBits]

theorem Instr.quirkBits_eq_zero {i : Instr} (h : takesQuirks i.opc = false) : i.quirkBits = 0 := by
  cases i with
  | pack q => exact absurd h (by simp [takesQuirks, Instr.opc])
  | unpack q => exact absurd h (by simp [takesQuirks, Instr.opc])
  | _ => rfl

theorem Instr.modeBits_eq_zero {i : Instr} (h : takesMode i.opc = false) : i.modeBits = 0 := by
  cases i with
  | frBegin mode => exact absurd h (by simp [takesMode, Instr.opc])
  | _ => rfl

/-- A word is a command's encoding when it has the command's fields. -/
theorem encode_eq_iff_fields (i : Instr) (w : Word) :
    encode i = w ↔
      rsvOf w = 0 ∧ q3Of w = 0 ∧ opcOf w = i.opc ∧ quirkBitsOf w = i.quirkBits ∧ modeOf w = i.modeBits := by
  rw [eq_comm, word_eq_iff_fields, encode_eq_commandWord]
  simp

/-! ### The decoder (R86) -/

/-- The opcode map at a command's own fields. -/
theorem opcodeCommand?_fields (i : Instr) : opcodeCommand? i.opc i.quirkBits i.modeBits = some i := by
  cases i with
  | pack q => simp [opcodeCommand?, Instr.opc, Instr.quirkBits]
  | unpack q => simp [opcodeCommand?, Instr.opc, Instr.quirkBits]
  | _ => rfl

/-- The command the opcode map answers has the opcode looked up, and the fields its opcode takes. -/
theorem fields_of_opcodeCommand? {opc : BitVec 8} {q : BitVec 3} {mode : BitVec 2} {i : Instr}
    (h : opcodeCommand? opc q mode = some i) :
    i.opc = opc ∧ (takesQuirks opc = true → i.quirkBits = q) ∧ (takesMode opc = true → i.modeBits = mode) := by
  unfold opcodeCommand? at h
  split at h <;> cases h <;> simp [Instr.opc, Instr.quirkBits, Instr.modeBits, takesQuirks, takesMode]

/-- Every command's opcode is in the map, whatever the other fields. -/
theorem exists_opcodeCommand? (i : Instr) (q : BitVec 3) (mode : BitVec 2) :
    ∃ j, opcodeCommand? i.opc q mode = some j := by
  cases i <;> exact ⟨_, rfl⟩

/-- The opcode map has the twelve opcodes of R92 and no other. -/
theorem opcodeCommand?_eq_none_iff (opc : BitVec 8) (q : BitVec 3) (mode : BitVec 2) :
    opcodeCommand? opc q mode = none ↔
      opc.toNat ∉ [0x00, 0x02, 0x03, 0x04, 0x10, 0x11, 0x12, 0x13, 0x14, 0x19, 0x1A, 0x1B] := by
  unfold opcodeCommand?
  split
  case h_13 => simp_all [← BitVec.toNat_inj]
  all_goals simp

/-- What the decoder asks of the fields besides that the opcode is in the map (R86, steps 1, 3, 4 and 5). -/
structure FieldsLegal (w : Word) : Prop where
  rsv : rsvOf w = 0
  q3 : q3Of w = 0
  quirks : takesQuirks (opcOf w) = false → quirkBitsOf w = 0
  mode : takesMode (opcOf w) = false → modeOf w = 0
  mode_listed : takesMode (opcOf w) = true → modeOf w ≠ 3

/-- The decoder answers the command of the opcode map, of the words that pass its tests. -/
theorem decode_eq_ok_iff_map (w : Word) (i : Instr) :
    decode w = .ok i ↔ FieldsLegal w ∧ opcodeCommand? (opcOf w) (quirkBitsOf w) (modeOf w) = some i := by
  constructor
  · intro h
    unfold decode at h
    split at h
    next => cases h
    next hrsv =>
      split at h
      next => cases h
      next hq3 =>
        split at h
        next => cases h
        next j hmap =>
          split_ifs at h with hquirks hmode hlisted
          cases h
          simp only [ne_eq, not_not] at hrsv hq3
          exact ⟨⟨hrsv, hq3, by simpa using hquirks, by simpa using hmode, by simpa using hlisted⟩, hmap⟩
  · rintro ⟨⟨hrsv, hq3, hquirks, hmode, hlisted⟩, hmap⟩
    simp only [decode, hmap]
    rw [if_neg (not_not.2 hrsv), if_neg (not_not.2 hq3), if_neg (by simpa using hquirks), if_neg (by simpa using hmode),
      if_neg (by simpa using hlisted)]

/-- The decoder accepts the encodings of the well-formed commands and no other word. -/
theorem decode_eq_ok_iff (w : Word) (i : Instr) : decode w = .ok i ↔ i.wellFormed = true ∧ encode i = w := by
  rw [decode_eq_ok_iff_map, encode_eq_iff_fields, Instr.wellFormed_iff]
  constructor
  · rintro ⟨hw, hmap⟩
    obtain ⟨hopc, hquirks, hmode⟩ := fields_of_opcodeCommand? hmap
    have hq : i.quirkBits = quirkBitsOf w := by
      cases ht : takesQuirks (opcOf w) with
      | true => exact hquirks ht
      | false => rw [hw.quirks ht, Instr.quirkBits_eq_zero (hopc ▸ ht)]
    have hm : i.modeBits = modeOf w := by
      cases ht : takesMode (opcOf w) with
      | true => exact hmode ht
      | false => rw [hw.mode ht, Instr.modeBits_eq_zero (hopc ▸ ht)]
    refine ⟨?_, hw.rsv, hw.q3, hopc.symm, hq.symm, hm.symm⟩
    rw [hm]
    cases ht : takesMode (opcOf w) with
    | true => exact hw.mode_listed ht
    | false => rw [hw.mode ht]; decide
  · rintro ⟨hwf, hrsv, hq3, hopc, hquirks, hmode⟩
    rw [hopc, hquirks, hmode]
    refine ⟨⟨hrsv, hq3, ?_, ?_, ?_⟩, opcodeCommand?_fields i⟩
    · rw [hopc, hquirks]
      exact Instr.quirkBits_eq_zero
    · rw [hopc, hmode]
      exact Instr.modeBits_eq_zero
    · rw [hmode]
      exact fun _ => hwf

/-- Settles O1: the decoder accepts the encoding of each well-formed command, as that command. -/
theorem decodeOfEncodeIsTheCommand : Obligations.DecodeOfEncodeIsTheCommand :=
  fun i hi => (decode_eq_ok_iff (encode i) i).2 ⟨hi, rfl⟩

/-- Settles O2: the decoder accepts nothing but encodings. -/
theorem decodedWordIsTheEncodingOfItsCommand : Obligations.DecodedWordIsTheEncodingOfItsCommand :=
  fun w i => (decode_eq_ok_iff w i).1

/-- Settles O5: closed words, each decoded by the five tests. -/
theorem writtenOutWordsDecode : Obligations.WrittenOutWordsDecode :=
  ⟨rfl, rfl, rfl, rfl, rfl, rfl, rfl⟩

/-! ### The rows of the opcode table (R92) -/

theorem tableMatch_eq_commandWord (i : Instr) : tableMatch i = commandWord 0 0 i.opc := by
  cases i <;> simp only [tableMatch, Instr.opc] <;> rfl

theorem tableMatch_eq_iff_opc (i j : Instr) : tableMatch i = tableMatch j ↔ i.opc = j.opc := by
  rw [tableMatch_eq_commandWord, tableMatch_eq_commandWord, word_eq_iff_fields]
  simp

/-- FR_BEGIN's row is the one whose opcode takes a MODE field. -/
theorem tableMatch_eq_frBegin_iff (i : Instr) : tableMatch i = 0x10 ↔ takesMode i.opc = true := by
  cases i <;> simp only [tableMatch, Instr.opc] <;> decide

/-- A row's mask covers every field but the one its opcode takes. -/
theorem tableMask_fields (i : Instr) :
    rsvOf (tableMask i) = BitVec.allOnes 18 ∧ q3Of (tableMask i) = BitVec.allOnes 1 ∧
    opcOf (tableMask i) = BitVec.allOnes 8 ∧
    quirkBitsOf (tableMask i) = (if takesQuirks i.opc then 0 else BitVec.allOnes 3) ∧
    modeOf (tableMask i) = if takesMode i.opc then 0 else BitVec.allOnes 2 := by
  cases i <;> simp only [tableMask, Instr.opc] <;> exact ⟨rfl, rfl, rfl, rfl, rfl⟩

/-- A word passes a row's mask when its fields are the row's, the one that the opcode takes being free. -/
theorem and_tableMask_eq_iff_fields (w : Word) (i : Instr) :
    w &&& tableMask i = tableMatch i ↔
      rsvOf w = 0 ∧ q3Of w = 0 ∧ opcOf w = i.opc ∧ (takesQuirks i.opc = false → quirkBitsOf w = 0) ∧
      (takesMode i.opc = false → modeOf w = 0) := by
  obtain ⟨hrsv, hq3, hopc, hquirks, hmode⟩ := tableMask_fields i
  rw [tableMatch_eq_commandWord, word_eq_iff_fields, rsvOf_and, q3Of_and, opcOf_and, quirkBitsOf_and, modeOf_and,
    hrsv, hq3, hopc, hquirks, hmode]
  cases takesQuirks i.opc <;> cases takesMode i.opc <;> simp [-BitVec.reduceAllOnes]

/-- A word decodes to a command of a row when it is legal and has the row's opcode. -/
theorem decode_mem_row_iff (w : Word) (i : Instr) :
    (∃ j, decode w = .ok j ∧ tableMatch j = tableMatch i) ↔ FieldsLegal w ∧ opcOf w = i.opc := by
  constructor
  · rintro ⟨j, hdec, hrow⟩
    obtain ⟨hw, hmap⟩ := (decode_eq_ok_iff_map w j).1 hdec
    obtain ⟨hopc, -, -⟩ := fields_of_opcodeCommand? hmap
    exact ⟨hw, hopc.symm.trans ((tableMatch_eq_iff_opc j i).1 hrow)⟩
  · rintro ⟨hw, hopc⟩
    obtain ⟨j, hmap⟩ := exists_opcodeCommand? i (quirkBitsOf w) (modeOf w)
    obtain ⟨hjopc, -, -⟩ := fields_of_opcodeCommand? hmap
    rw [← hopc] at hmap
    exact ⟨j, (decode_eq_ok_iff_map w j).2 ⟨hw, hmap⟩, (tableMatch_eq_iff_opc j i).2 hjopc⟩

theorem modeOf_eq_three_iff (w : Word) : modeOf w = 3 ↔ w.toNat / 2 ^ 12 % 4 = 3 := by
  rw [← BitVec.toNat_inj, modeOf_toNat]
  rfl

/-- Settles O4: both sides say that the word has the row's opcode and legal fields. -/
theorem decoderAgreesWithTheOpcodeTable : Obligations.DecoderAgreesWithTheOpcodeTable := by
  intro w i
  rw [decode_mem_row_iff, and_tableMask_eq_iff_fields, tableMatch_eq_frBegin_iff, ne_eq, ← modeOf_eq_three_iff]
  constructor
  · rintro ⟨⟨hrsv, hq3, hquirks, hmode, hlisted⟩, hopc⟩
    rw [hopc] at hquirks hmode hlisted
    exact ⟨⟨hrsv, hq3, hopc, hquirks, hmode⟩, hlisted⟩
  · rintro ⟨⟨hrsv, hq3, hopc, hquirks, hmode⟩, hlisted⟩
    rw [← hopc] at hquirks hmode hlisted
    exact ⟨⟨hrsv, hq3, hquirks, hmode, hlisted⟩, hopc⟩

end Sys2Proof

namespace Sys2Proof.Machine

/-! ### The illegal words (R94) -/

theorem takesQuirks_opcOf_eq_false_iff (w : Word) :
    takesQuirks (opcOf w) = false ↔ w.toNat % 256 ∉ [0x02, 0x03] := by
  rw [← opcOf_toNat]
  simp [takesQuirks, ← BitVec.toNat_inj]

theorem takesMode_opcOf_iff (w : Word) : takesMode (opcOf w) = true ↔ w.toNat % 256 = 0x10 := by
  rw [← opcOf_toNat]
  simp [takesMode, ← BitVec.toNat_inj]

/-- The list of R94, read off the fields. -/
theorem illegalWord_iff_fields (w : Word) :
    illegalWord w ↔
      rsvOf w ≠ 0 ∨ q3Of w ≠ 0 ∨ opcodeCommand? (opcOf w) (quirkBitsOf w) (modeOf w) = none ∨
      (quirkBitsOf w ≠ 0 ∧ takesQuirks (opcOf w) = false) ∨ (modeOf w ≠ 0 ∧ takesMode (opcOf w) = false) ∨
      (takesMode (opcOf w) = true ∧ modeOf w = 3) := by
  have hq3 : w.toNat / 2 ^ 11 % 2 = 1 ↔ w.toNat / 2 ^ 11 % 2 ≠ 0 := by omega
  rw [opcodeCommand?_eq_none_iff, takesQuirks_opcOf_eq_false_iff, ← Bool.not_eq_true, takesMode_opcOf_iff,
    illegalWord, hq3]
  simp only [ne_eq, ← BitVec.toNat_inj, rsvOf_toNat, q3Of_toNat, opcOf_toNat, quirkBitsOf_toNat, modeOf_toNat]
  rfl

/-- The words that the list leaves out are those the decoder's tests let pass. -/
theorem not_illegalWord_iff (w : Word) :
    ¬ illegalWord w ↔ FieldsLegal w ∧ opcodeCommand? (opcOf w) (quirkBitsOf w) (modeOf w) ≠ none := by
  rw [illegalWord_iff_fields]
  simp only [not_or, not_and, ne_eq, not_not]
  constructor
  · rintro ⟨hrsv, hq3, hmap, hquirks, hmode, hlisted⟩
    exact ⟨⟨hrsv, hq3, not_imp_not.1 hquirks, not_imp_not.1 hmode, hlisted⟩, hmap⟩
  · rintro ⟨⟨hrsv, hq3, hquirks, hmode, hlisted⟩, hmap⟩
    exact ⟨hrsv, hq3, hmap, mt hquirks, mt hmode, hlisted⟩

theorem not_illegalWord_iff_decodes (w : Word) : ¬ illegalWord w ↔ ∃ i, decode w = .ok i := by
  simp only [not_illegalWord_iff, decode_eq_ok_iff_map, exists_and_left, Option.ne_none_iff_exists']

/-- An illegal word on the command port reports IllegalCommand. -/
theorem hostCmd_of_illegalWord {w : Word} (h : illegalWord w) (s : State) :
    hostCmd w s = .next (reported s 0x0B) := by
  cases hdec : decode w with
  | ok i => exact absurd h ((not_illegalWord_iff_decodes w).2 ⟨i, hdec⟩)
  | error e =>
    calc hostCmd w s
        = execIllegal s := by simp only [hostCmd, hdec]
      _ = .next (reported s 0x0B) := congrArg Host.Outcome.next (State.raise_eq_reported s .illegalCommand)

/-- Settles O3: on the fields, the list of R94 is the negation of the decoder's tests, and an error of the decoder is
executed as `raise` of IllegalCommand. -/
theorem illegalWordsOnlyReportIllegalCommand : Obligations.IllegalWordsOnlyReportIllegalCommand :=
  fun w s => ⟨fun h => hostCmd_of_illegalWord h s, (not_illegalWord_iff_decodes w).1⟩

/-- Settles O57: the step is `Cmd` of the word on the state with the operation taken, to which O3's rule applies. -/
theorem stepReportsAnIllegalWord : Obligations.StepReportsAnIllegalWord :=
  fun s _ rest hp h => (step_of_pending hp).trans (hostCmd_of_illegalWord h (s.taken rest))

end Sys2Proof.Machine
end

section
/-! PROOFS. The statements of 40_packing.md. `Pack` and `Unpack` are given one logical bit at a time (R130), and a byte string
is its logical bits, so that the laws of R126, R127 and R131 are case splits on whether a logical bit is in a field. PACK and
UNPACK are the two functions on the bytes they find in BUF. -/

namespace Sys2Proof.Machine

/-! ### The places of the logical bits (R130) -/

/-- Logical bit `L` of a packed buffer, at the byte and the bit where R130 places it. -/
def logicalBit (s : List Byte) (q : Quirks) (L : Nat) : Bool :=
  bitAt s (physAddr (L / 8) s.length q) (physBit (L % 8) q)

section
variable {s t : List Byte} {start endBit n b b' L L' a p : Nat} {q : Quirks}

theorem physAddr_inj (hq : (q.le ∨ q.lsw) → n % 4 = 0) (hb : b < n) (hb' : b' < n)
    (h : physAddr b n q = physAddr b' n q) : b = b' := by
  rw [← physAddr_physAddr hq hb, h, physAddr_physAddr hq hb']

/-- The map from a logical bit to its byte and bit is one to one (R130). -/
theorem place_inj (hq : (q.le ∨ q.lsw) → n % 4 = 0) (hL : L < 8 * n) (hL' : L' < 8 * n)
    (ha : physAddr (L / 8) n q = physAddr (L' / 8) n q) (hp : physBit (L % 8) q = physBit (L' % 8) q) : L = L' := by
  have hbox := physAddr_inj hq (b := L / 8) (b' := L' / 8) (by omega) (by omega) ha
  have hbit : L % 8 = L' % 8 := by
    rw [← physBit_physBit (L % 8) q (by omega), hp, physBit_physBit (L' % 8) q (by omega)]
  omega

/-- Every bit of the buffer is the place of a logical bit. -/
theorem exists_place (hq : (q.le ∨ q.lsw) → n % 4 = 0) (ha : a < n) (hp : p < 8) :
    ∃ L < 8 * n, a = physAddr (L / 8) n q ∧ p = physBit (L % 8) q := by
  have hbox := physAddr_lt a n q hq ha
  have hbit := physBit_lt p q hp
  refine ⟨physAddr a n q * 8 + physBit p q, by omega, ?_, ?_⟩
  · rw [show (physAddr a n q * 8 + physBit p q) / 8 = physAddr a n q by omega, physAddr_physAddr hq ha]
  · rw [show (physAddr a n q * 8 + physBit p q) % 8 = physBit p q by omega, physBit_physBit p q hp]

theorem bitAt_of_length_le (h : s.length ≤ a) : bitAt s a p = false := by
  simp [bitAt, List.getElem?_eq_none h]

/-- A byte string is its bits. -/
theorem eq_of_bitAt_eq (hlen : t.length = s.length) (h : ∀ a p, a < s.length → p < 8 → bitAt t a p = bitAt s a p) :
    t = s := by
  refine List.ext_getElem hlen fun a ht hs => BitVec.eq_of_getLsbD_eq fun p hp => ?_
  simpa [bitAt, ht, hs] using h a p hs hp

/-- A byte string is its logical bits. -/
theorem eq_of_logicalBit_eq (hq : (q.le ∨ q.lsw) → s.length % 4 = 0) (hlen : t.length = s.length)
    (h : ∀ L < 8 * s.length, logicalBit t q L = logicalBit s q L) : t = s := by
  refine eq_of_bitAt_eq hlen fun a p ha hp => ?_
  obtain ⟨L, hL, rfl, rfl⟩ := exists_place hq ha hp
  simpa only [logicalBit, hlen] using h L hL

/-- A logical bit outside the field lies outside the field's physical image. -/
theorem not_inImage_of_not_inField (hq : (q.le ∨ q.lsw) → n % 4 = 0) (hstart : start < 8 * n) (hL : L < 8 * n)
    (hout : ¬ (endBit ≤ L ∧ L ≤ start)) : ¬ inImage start endBit n q (physAddr (L / 8) n q) (physBit (L % 8) q) := by
  rintro ⟨L', hend, hle, ha, hp⟩
  obtain rfl := place_inj hq hL (by omega) ha hp
  exact hout ⟨hend, hle⟩

end

/-! ### `Pack`, logical bit by logical bit (R118, R130) -/

section
variable {s : List Byte} {v start endBit n L a p : Nat} {q : Quirks}

/-- Updating a string at the addresses of distinct boxes updates each of them once and no other. -/
theorem getD_foldl_set {addr : Nat → Nat} {f : Nat → Byte → Byte} {n b : Nat} (hb : b < n)
    (hinj : ∀ x y, x < n → y < n → addr x = addr y → x = y) :
    ∀ (bs : List Nat) (s : List Byte), (∀ x < n, addr x < s.length) → (∀ x ∈ bs, x < n) → bs.Nodup →
      (bs.foldl (fun t x => t.set (addr x) (f x (t.getD (addr x) 0))) s).getD (addr b) 0 =
        if b ∈ bs then f b (s.getD (addr b) 0) else s.getD (addr b) 0
  | [], s, _, _, _ => by simp
  | c :: rest, s, hlt, hbs, hnd => by
    obtain ⟨hc, hrest⟩ := List.nodup_cons.1 hnd
    obtain ⟨hcn, hrestn⟩ := List.forall_mem_cons.1 hbs
    rw [List.foldl_cons, getD_foldl_set hb hinj rest _ (by simpa using hlt) hrestn hrest]
    by_cases hbc : b = c
    · subst hbc
      simp [hc, hlt b hb]
    · have hne : addr c ≠ addr b := fun h => hbc (hinj b c hb hcn h.symm)
      simp [hbc, List.getElem?_set_ne hne]

/-- `Pack` updates the byte of each visited box and no other (R116, R118). -/
theorem pack_getD_physAddr {b : Nat} (hq : (q.le ∨ q.lsw) → s.length % 4 = 0) (hend : endBit ≤ start)
    (hstart : start < 8 * s.length) (hb : b < s.length) :
    (pack s v start endBit q).getD (physAddr b s.length q) 0 =
      if endBit / 8 ≤ b ∧ b ≤ start / 8 then packByte q v start endBit b (s.getD (physAddr b s.length q) 0)
      else s.getD (physAddr b s.length q) 0 := by
  simp only [← mem_boxes start endBit b hend]
  exact getD_foldl_set hb (fun x y hx hy => physAddr_inj hq hx hy) _ s (fun x hx => physAddr_lt x _ q hq hx)
    (fun x hx => by have := (mem_boxes start endBit x hend).1 hx; omega) (boxes_nodup start endBit hend)

/-- The logical bits of `Pack`: the value's in the field, the old ones elsewhere (R130). -/
theorem logicalBit_pack (hq : (q.le ∨ q.lsw) → s.length % 4 = 0) (hend : endBit ≤ start)
    (hstart : start < 8 * s.length) (hL : L < 8 * s.length) :
    logicalBit (pack s v start endBit q) q L =
      if endBit ≤ L ∧ L ≤ start then v.testBit (L - endBit) else logicalBit s q L := by
  have hsplit : L / 8 * 8 + L % 8 = L := by omega
  rw [logicalBit, bitAt, pack_length, pack_getD_physAddr hq hend hstart (by omega)]
  by_cases hbox : endBit / 8 ≤ L / 8 ∧ L / 8 ≤ start / 8
  · rw [if_pos hbox, packByte_getLsbD q v start endBit _ _ _ hend (by omega) hbox, hsplit]
    rfl
  · rw [if_neg hbox, if_neg (by omega)]
    rfl

/-- `Pack` keeps every bit outside the physical image of the field (R126). -/
theorem bitAt_pack_of_not_inImage (hq : (q.le ∨ q.lsw) → s.length % 4 = 0) (hend : endBit ≤ start)
    (hstart : start < 8 * s.length) (hp : p < 8) (hout : ¬ inImage start endBit s.length q a p) :
    bitAt (pack s v start endBit q) a p = bitAt s a p := by
  rcases Nat.lt_or_ge a s.length with ha | ha
  · obtain ⟨L, hL, rfl, rfl⟩ := exists_place hq ha hp
    have hbit := logicalBit_pack (v := v) hq hend hstart hL
    rw [if_neg fun hin => hout ⟨L, hin.1, hin.2, rfl, rfl⟩] at hbit
    simpa only [logicalBit, pack_length] using hbit
  · rw [bitAt_of_length_le ha, bitAt_of_length_le (by simpa using ha)]

end

/-! ### `Unpack`, bit by bit (R119, R130) -/

/-- Where two numbers share no bit, their sum has the bits of both. -/
theorem testBit_add_of_disjoint {x y : Nat} (h : ∀ k, x.testBit k = true → y.testBit k = false) (k : Nat) :
    (x + y).testBit k = (x.testBit k || y.testBit k) := by
  have hand : BitVec.ofNat (x + y + 1) x &&& BitVec.ofNat (x + y + 1) y = 0 := by
    refine BitVec.eq_of_getLsbD_eq fun i hi => ?_
    simpa [-BitVec.getLsbD_eq_getElem, BitVec.getLsbD_ofNat, hi] using h i
  have hlt : x + y < 2 ^ (x + y + 1) := Nat.lt_two_pow_self.trans (Nat.pow_lt_pow_right (by omega) (by omega))
  have hsum := congrArg BitVec.toNat (BitVec.add_eq_or_of_and_eq_zero _ _ hand)
  rw [← BitVec.ofNat_add, BitVec.toNat_or, BitVec.toNat_ofNat, BitVec.toNat_ofNat, BitVec.toNat_ofNat,
    Nat.mod_eq_of_lt hlt, Nat.mod_eq_of_lt (by omega), Nat.mod_eq_of_lt (by omega)] at hsum
  rw [hsum, Nat.testBit_or]

/-- The bits of a sum over distinct boxes, of which only box `own k` has a bit `k`. -/
theorem testBit_foldl_add {g own : Nat → Nat} (k : Nat) :
    ∀ (bs : List Nat) (v : Nat), (∀ b ∈ bs, ∀ k, (g b).testBit k = true → own k = b) → bs.Nodup →
      (∀ k, v.testBit k = true → own k ∉ bs) →
      (bs.foldl (fun v b => v + g b) v).testBit k = (v.testBit k || (decide (own k ∈ bs) && (g (own k)).testBit k))
  | [], v, _, _, _ => by simp
  | c :: rest, v, hown, hnd, hv => by
    obtain ⟨hc, hrest⟩ := List.nodup_cons.1 hnd
    obtain ⟨hownc, hownrest⟩ := List.forall_mem_cons.1 hown
    have hadd : ∀ k, (v + g c).testBit k = (v.testBit k || (g c).testBit k) :=
      testBit_add_of_disjoint fun k hk => Bool.eq_false_iff.2 fun hg => hv k hk (by simp [hownc k hg])
    have hfresh : ∀ k, (v + g c).testBit k = true → own k ∉ rest := by
      intro k hk hmem
      rw [hadd, Bool.or_eq_true] at hk
      rcases hk with hk | hk
      · exact hv k hk (List.mem_cons_of_mem c hmem)
      · exact hc (hownc k hk ▸ hmem)
    rw [List.foldl_cons, testBit_foldl_add k rest _ hownrest hrest hfresh, hadd, Bool.or_assoc]
    congr 1
    by_cases hk : own k = c
    · simp [hk, hc]
    · have hg : (g c).testBit k = false := Bool.eq_false_iff.2 fun hg => hk (hownc k hg)
      simp [hk, hg]

section
variable {s : List Byte} {start endBit n : Nat} {q : Quirks}

/-- The bits of `Unpack`: the logical bits of the field, and 0 above it (R130). -/
theorem unpack_testBit (hend : endBit ≤ start) (k : Nat) :
    (unpack s start endBit q).testBit k = (decide (endBit + k ≤ start) && logicalBit s q (endBit + k)) := by
  have hbit : ∀ b ∈ boxes start endBit, ∀ k,
      (unpackByte q start endBit b (s.getD (physAddr b s.length q) 0)).testBit k =
        (decide ((endBit + k) / 8 = b ∧ endBit + k ≤ start) &&
          (s.getD (physAddr b s.length q) 0).getLsbD (physBit ((endBit + k) % 8) q)) :=
    fun b hb k => unpackByte_testBit q start endBit b k _ hend ((mem_boxes start endBit b hend).1 hb)
  have hown : ∀ b ∈ boxes start endBit, ∀ k,
      (unpackByte q start endBit b (s.getD (physAddr b s.length q) 0)).testBit k = true → (endBit + k) / 8 = b := by
    intro b hb k hk
    rw [hbit b hb k, Bool.and_eq_true, decide_eq_true_eq] at hk
    exact hk.1.1
  have hsum := testBit_foldl_add (own := fun k => (endBit + k) / 8) k _ 0 hown (boxes_nodup start endBit hend) (by simp)
  refine hsum.trans ?_
  rw [Nat.zero_testBit, Bool.false_or]
  by_cases hbox : (endBit + k) / 8 ∈ boxes start endBit
  · rw [hbit _ hbox k, decide_eq_true hbox, Bool.true_and]
    simp [logicalBit, bitAt]
  · have hout : ¬ endBit + k ≤ start := fun h => hbox ((mem_boxes _ _ _ hend).2 ⟨by omega, by omega⟩)
    simp [hbox, hout]

/-- `Unpack` reads the bytes of the buffer only (R124). -/
theorem unpackFrom_congr {f g : Nat → Byte} (hq : (q.le ∨ q.lsw) → n % 4 = 0) (hend : endBit ≤ start)
    (hstart : start < 8 * n) (h : ∀ a < n, f a = g a) :
    unpackFrom f n start endBit q = unpackFrom g n start endBit q := by
  refine List.foldl_rel (r := (· = ·)) rfl fun box hbox v w hvw => ?_
  have hlt : box < n := by have := (mem_boxes start endBit box hend).1 hbox; omega
  rw [hvw, h _ (physAddr_lt box n q hq hlt)]

end

/-! ### The laws of the two functions (R126, R127, R131) -/

section
variable {s : List Byte} {v v' : BitVec 64} {start endBit start' endBit' n L : Nat} {q : Quirks}

/-- A value for which `Check` passes fits the field, 64 bits wide or less (R123). -/
theorem packLegal.value_lt (h : packLegal v start endBit n q) : v.toNat < 2 ^ (start - endBit + 1) := by
  obtain ⟨-, hwidth, hfits, -, -⟩ := h
  rcases Nat.lt_or_ge (start - endBit + 1) 64 with hlt | hge
  · exact hfits hlt
  · exact v.isLt.trans_le (Nat.pow_le_pow_right (by omega) hge)

theorem logicalBit_pack_toNat (h : packLegal v start endBit s.length q) (hL : L < 8 * s.length) :
    logicalBit (pack s v.toNat start endBit q) q L =
      if endBit ≤ L ∧ L ≤ start then v.getLsbD (L - endBit) else logicalBit s q L := by
  obtain ⟨hend, -, -, hq, hstart⟩ := h
  rw [logicalBit_pack hq hend hstart hL, BitVec.testBit_toNat]

theorem unpack_pack (h : packLegal v start endBit s.length q) :
    unpack (pack s v.toNat start endBit q) start endBit q = v.toNat := by
  have hfits := h.value_lt
  have ⟨hend, _, _, _, hstart⟩ := h
  refine Nat.eq_of_testBit_eq fun k => ?_
  rw [unpack_testBit hend, BitVec.testBit_toNat]
  by_cases hk : endBit + k ≤ start
  · simp [hk, logicalBit_pack_toNat h (L := endBit + k) (by omega)]
  · have hzero : v.getLsbD k = false :=
      Nat.testBit_eq_false_of_lt (hfits.trans_le (Nat.pow_le_pow_right (by omega) (by omega)))
    simp [hk, hzero]

/-- Packing what was unpacked gives the string back, from any string that agrees with it outside the field. -/
theorem pack_unpack {t : List Byte} (hq : (q.le ∨ q.lsw) → s.length % 4 = 0) (hend : endBit ≤ start)
    (hstart : start < 8 * s.length) (hlen : t.length = s.length)
    (hout : ∀ a p, p < 8 → ¬ inImage start endBit s.length q a p → bitAt t a p = bitAt s a p) :
    pack t (unpack s start endBit q) start endBit q = s := by
  refine eq_of_logicalBit_eq hq (by simpa using hlen) fun L hL => ?_
  rw [logicalBit_pack (by rwa [hlen]) hend (by rwa [hlen]) (by rwa [hlen])]
  by_cases hin : endBit ≤ L ∧ L ≤ start
  · rw [if_pos hin, unpack_testBit hend, Nat.add_sub_cancel' hin.1]
    simp [hin.2]
  · rw [if_neg hin, logicalBit, hlen]
    exact hout _ _ (physBit_lt _ q (by omega)) (not_inImage_of_not_inField hq hstart hL hin)

theorem pack_comm (h : packLegal v start endBit s.length q) (h' : packLegal v' start' endBit' s.length q)
    (hdisj : start < endBit' ∨ start' < endBit) :
    pack (pack s v.toNat start endBit q) v'.toNat start' endBit' q =
      pack (pack s v'.toNat start' endBit' q) v.toNat start endBit q := by
  have ⟨_, _, _, hq, _⟩ := h
  refine eq_of_logicalBit_eq (q := q) (by simpa using hq) (by simp) fun L hL => ?_
  simp only [pack_length] at hL
  rw [logicalBit_pack_toNat (by simpa using h') (by simpa using hL), logicalBit_pack_toNat h hL,
    logicalBit_pack_toNat (by simpa using h) (by simpa using hL), logicalBit_pack_toNat h' hL]
  by_cases hin : endBit ≤ L ∧ L ≤ start
  · have hout : ¬ (endBit' ≤ L ∧ L ≤ start') := by omega
    rw [if_pos hin, if_pos hin, if_neg hout]
  · rw [if_neg hin, if_neg hin]

end

/-- Settles O29, from the bits of the two functions. -/
theorem packRoundTrip : Obligations.PackRoundTrip := by
  intro s v start endBit q h
  have ⟨hend, _, _, hq, hstart⟩ := h
  exact ⟨unpack_pack h, pack_length s _ start endBit q,
    fun a p hp hout => bitAt_pack_of_not_inImage hq hend hstart hp hout,
    fun t hlen hout => pack_unpack hq hend hstart hlen hout⟩

/-- Settles O31: a logical bit is in one of two disjoint fields at most; and the later pack is the one that is read. -/
theorem disjointPacksCommute : Obligations.DisjointPacksCommute :=
  fun s v _ start endBit _ _ q h h' =>
    ⟨pack_comm h h', unpack_pack (s := pack s v.toNat start endBit q) (by rwa [pack_length])⟩

/-! ### A byte string as one number (R127) -/

section
variable {s : List Byte} {v : BitVec 64} {start endBit L : Nat}

theorem beNat_append_byte (s : List Byte) (b : Byte) : beNat (s ++ [b]) = 2 ^ 8 * beNat s + b.toNat := by
  simp [beNat, Nat.mul_comm]

/-- With no quirks logical bit `L` lies in the byte `L / 8` from the last. -/
theorem logicalBit_noQuirks (s : List Byte) (L : Nat) :
    logicalBit s noQuirks L = bitAt s (s.length - L / 8 - 1) (L % 8) := by
  rw [logicalBit, physAddr_of_plain rfl rfl]
  rfl

/-- The bits of the big-endian number are the logical bits with no quirks. -/
theorem beNat_testBit (s : List Byte) (L : Nat) :
    (beNat s).testBit L = (decide (L < 8 * s.length) && logicalBit s noQuirks L) := by
  simp only [logicalBit_noQuirks]
  induction s using List.reverseRecOn generalizing L with
  | nil => simp [beNat]
  | append_singleton s b ih =>
    rw [beNat_append_byte, Nat.testBit_two_pow_mul_add _ b.isLt]
    split_ifs with hL
    · have hbox : L / 8 = 0 := by omega
      have hlt : L < 8 * (s.length + 1) := by omega
      simp [bitAt, hbox, hlt, Nat.mod_eq_of_lt hL, BitVec.testBit_toNat]
    · have hbox : (L - 8) / 8 = L / 8 - 1 := by omega
      have hbit : (L - 8) % 8 = L % 8 := by omega
      rw [ih, hbox, hbit]
      by_cases hlt : L < 8 * (s.length + 1)
      · have haddr : s.length + 1 - L / 8 - 1 = s.length - (L / 8 - 1) - 1 := by omega
        have hin : s.length - (L / 8 - 1) - 1 < s.length := by omega
        have hlt' : L - 8 < 8 * s.length := by omega
        simp [bitAt, hlt, hlt', haddr, List.getElem?_append_left hin]
      · have hlt' : ¬ L - 8 < 8 * s.length := by omega
        simp [hlt, hlt']

/-- The bits of a number whose digits of weights `2^endBit` to `2^start` are replaced by `v`. -/
theorem replaceDigits_testBit {B x : Nat} (hend : endBit ≤ start) (hx : x < 2 ^ (start - endBit + 1)) (L : Nat) :
    (B / 2 ^ (start + 1) * 2 ^ (start + 1) + x * 2 ^ endBit + B % 2 ^ endBit).testBit L =
      if endBit ≤ L ∧ L ≤ start then x.testBit (L - endBit) else B.testBit L := by
  have hlow : B % 2 ^ endBit < 2 ^ endBit := Nat.mod_lt _ (Nat.two_pow_pos endBit)
  have hmid : 2 ^ endBit * x + B % 2 ^ endBit < 2 ^ (start + 1) := by
    calc 2 ^ endBit * x + B % 2 ^ endBit < 2 ^ endBit * (x + 1) := by rw [Nat.mul_succ]; omega
      _ ≤ 2 ^ endBit * 2 ^ (start - endBit + 1) := Nat.mul_le_mul_left _ hx
      _ = 2 ^ (start + 1) := by rw [← Nat.pow_add]; congr 1; omega
  rw [Nat.add_assoc, Nat.mul_comm _ (2 ^ (start + 1)), Nat.mul_comm x, Nat.testBit_two_pow_mul_add _ hmid,
    Nat.testBit_two_pow_mul_add _ hlow]
  by_cases htop : L < start + 1
  · by_cases hbot : L < endBit
    · rw [if_pos htop, if_pos hbot, if_neg (by omega), Nat.testBit_mod_two_pow, decide_eq_true hbot, Bool.true_and]
    · rw [if_pos htop, if_neg hbot, if_pos (by omega)]
  · rw [if_neg htop, if_neg (by omega), Nat.testBit_div_two_pow, Nat.sub_add_cancel (by omega)]

theorem beNat_pack (h : packLegal v start endBit s.length noQuirks) :
    beNat (pack s v.toNat start endBit noQuirks) =
      beNat s / 2 ^ (start + 1) * 2 ^ (start + 1) + v.toNat * 2 ^ endBit + beNat s % 2 ^ endBit := by
  have hfits := h.value_lt
  obtain ⟨hend, -, -, hq, hstart⟩ := h
  refine Nat.eq_of_testBit_eq fun L => ?_
  rw [replaceDigits_testBit hend hfits, beNat_testBit, beNat_testBit, pack_length]
  by_cases hL : L < 8 * s.length
  · rw [decide_eq_true hL, Bool.true_and, Bool.true_and, logicalBit_pack hq hend hstart hL]
  · have hout : ¬ (endBit ≤ L ∧ L ≤ start) := by omega
    simp [hL, hout]

end

/-- Settles O30: the logical bits with no quirks are the binary digits, and `Pack` replaces those of the field. -/
theorem plainPackIsBigEndian : Obligations.PlainPackIsBigEndian :=
  ⟨fun _ _ _ _ h => beNat_pack h, by decide⟩

/-! ### PACK and UNPACK on BUF (R128, R129) -/

section
variable {s : State} {q : Quirks} {op : Direction} {k : ErrorKind} {L : Nat}

theorem State.memRead_putByte (base n a : Nat) (x : Byte) :
    (s.putByte (base + a) x).memRead base n = (s.memRead base n).set a x := by
  refine List.ext_getElem (by simp) fun i _ _ => ?_
  simp only [State.memRead_getElem, State.bufByte_putByte, List.getElem_set, Nat.add_left_cancel_iff, eq_comm]

/-- The boxes of a legal field lie in the packed buffer (R124). -/
theorem State.fieldLegal.box_lt (h : s.fieldLegal q) {box : Nat} (hbox : box ∈ boxes s.start.toNat s.endBit.toNat) :
    box < s.len.toNat := by
  obtain ⟨hend, -, -, hstart, -⟩ := h
  have := (mem_boxes _ _ box hend).1 hbox
  omega

/-- Box by box, PACK does on BUF what `Pack` does on the bytes of the packed buffer (R128). -/
theorem State.memRead_packField (h : s.fieldLegal q) :
    (s.packField q).memRead s.base.toNat s.len.toNat =
      pack (s.memRead s.base.toNat s.len.toNat) s.value.toNat s.start.toNat s.endBit.toNat q := by
  have ⟨_, _, hq, _, _⟩ := h
  refine List.foldl_rel (r := fun m l => State.memRead { s with buf := m } s.base.toNat s.len.toNat = l) rfl
    fun box hbox m l hml => ?_
  subst hml
  have ha := physAddr_lt box s.len.toNat q hq (h.box_lt hbox)
  rw [State.memRead_length, State.memRead_getD _ _ _ _ 0 ha]
  exact State.memRead_putByte (s := { s with buf := m }) _ _ _ _

/-- PACK stores nothing outside the packed buffer (20_memory.md R72). -/
theorem State.packField_bufByte_of_not_inSpan {a : Nat} (h : s.fieldLegal q)
    (ha : ¬ inSpan s.base.toNat s.len.toNat a) : (s.packField q).bufByte a = s.bufByte a := by
  have ⟨_, _, hq, _, _⟩ := h
  refine Memory.packField_induction (P := fun m => m.byteAt s.unlisted a = s.buf.byteAt s.unlisted a) s.buf s.unlisted
    _ _ _ _ _ q rfl fun m box x hm hbox => ?_
  have hlt := physAddr_lt box s.len.toNat q hq (h.box_lt hbox)
  rw [Memory.byteAt_putByte_other _ _ _ _ _ (by unfold inSpan at ha; omega), hm]

/-- A logical bit of the packed buffer is the bit of BUF at its address (R130, R133). -/
theorem State.bitAt_bitAddr (hq : (q.le ∨ q.lsw) → s.len.toNat % 4 = 0) (hL : L < 8 * s.len.toNat) :
    (s.bufByte (s.bitAddr q L)).getLsbD (physBit (L % 8) q) =
      logicalBit (s.memRead s.base.toNat s.len.toNat) q L := by
  rw [logicalBit, bitAt, State.memRead_length,
    State.memRead_getD _ _ _ _ _ (physAddr_lt (L / 8) _ q hq (by omega)), State.bitAddr]

/-- The same after PACK: VALUE's bit in the field, the old bit elsewhere (R130). -/
theorem State.packField_bitAt_bitAddr (h : s.fieldLegal q) (hL : L < 8 * s.len.toNat) :
    ((s.packField q).bufByte (s.bitAddr q L)).getLsbD (physBit (L % 8) q) =
      if s.inField L then s.value.getLsbD (L - s.endBit.toNat)
      else (s.bufByte (s.bitAddr q L)).getLsbD (physBit (L % 8) q) := by
  have ⟨hend, _, hq, hstart, _⟩ := h
  calc ((s.packField q).bufByte (s.bitAddr q L)).getLsbD (physBit (L % 8) q)
      = logicalBit ((s.packField q).memRead s.base.toNat s.len.toNat) q L :=
        State.bitAt_bitAddr (s := s.packField q) hq hL
    _ = logicalBit (pack (s.memRead s.base.toNat s.len.toNat) s.value.toNat s.start.toNat s.endBit.toNat q) q L := by
      rw [State.memRead_packField h]
    _ = if s.inField L then s.value.getLsbD (L - s.endBit.toNat)
        else (s.bufByte (s.bitAddr q L)).getLsbD (physBit (L % 8) q) := by
      rw [logicalBit_pack (by simpa using hq) hend (by simpa using hstart) (by simpa using hL), BitVec.testBit_toNat,
        State.bitAt_bitAddr hq hL]

/-- PACK keeps every bit of BUF that is not the place of a bit of the field (R130). -/
theorem State.packField_bitAt_of_not_inField {a p : Nat} (h : s.fieldLegal q) (hp : p < 8)
    (hout : ∀ L, s.inField L → ¬ (a = s.bitAddr q L ∧ p = physBit (L % 8) q)) :
    ((s.packField q).bufByte a).getLsbD p = (s.bufByte a).getLsbD p := by
  have ⟨_, _, hq, _, _⟩ := h
  by_cases ha : inSpan s.base.toNat s.len.toNat a
  · obtain ⟨hle, hlt⟩ := ha
    obtain ⟨L, hL, haddr, rfl⟩ := exists_place hq (a := a - s.base.toNat) (by omega) hp
    obtain rfl : a = s.bitAddr q L := by rw [State.bitAddr, ← haddr]; omega
    rw [State.packField_bitAt_bitAddr h hL, if_neg fun hin => hout L hin ⟨rfl, rfl⟩]
  · rw [State.packField_bufByte_of_not_inSpan h ha]

/-- PACK changes STATUS and the bytes that hold a bit of the field (20_memory.md R72). -/
theorem State.packField_ok_changesOnly (h : s.fieldLegal q) :
    ChangesOnly [.status] (s.fieldBytes q) s (s.packField q).ok where
  regs_kept r hr := by
    cases r with
    | status => exact absurd (List.mem_singleton_self _) hr
    | _ => rfl
  bytes_kept a ha := BitVec.eq_of_getLsbD_eq fun _ hp =>
    State.packField_bitAt_of_not_inField h hp fun L hin hplace => ha ⟨L, hin, hplace.1⟩
  params_kept := rfl
  resets_kept := rfl
  pending_kept := rfl
  reply_kept := rfl

/-- UNPACK reads what `Unpack` reads from the bytes of the packed buffer (R129). -/
theorem State.unpackField_eq_unpack (h : s.fieldLegal q) :
    s.unpackField q = unpack (s.memRead s.base.toNat s.len.toNat) s.start.toNat s.endBit.toNat q := by
  obtain ⟨hend, -, hq, hstart, -⟩ := h
  rw [unpack, State.memRead_length]
  exact unpackFrom_congr hq hend hstart fun a ha => (State.memRead_getD _ _ _ _ _ ha).symm

/-- The bits of the field that UNPACK reads (R130). -/
theorem State.unpackField_testBit (h : s.fieldLegal q) (k : Nat) :
    (s.unpackField q).testBit k =
      (decide (k < s.fieldWidth) &&
        (s.bufByte (s.bitAddr q (s.endBit.toNat + k))).getLsbD (physBit ((s.endBit.toNat + k) % 8) q)) := by
  rw [State.unpackField_eq_unpack h]
  obtain ⟨hend, -, hq, hstart, -⟩ := h
  rw [unpack_testBit hend]
  by_cases hk : k < s.fieldWidth
  · have hle : s.endBit.toNat + k ≤ s.start.toNat := by unfold State.fieldWidth at hk; omega
    rw [State.bitAt_bitAddr hq (by omega), decide_eq_true hk, decide_eq_true hle]
  · have hgt : ¬ s.endBit.toNat + k ≤ s.start.toNat := by unfold State.fieldWidth at hk; omega
    rw [decide_eq_false hk, decide_eq_false hgt, Bool.false_and, Bool.false_and]

theorem State.setValue_ok_changesOnly (s : State) (v : BitVec 64) :
    ChangesOnly [.value, .status] noByte s (s.setValue v).ok where
  regs_kept r hr := by
    cases r with
    | value => exact absurd (by simp) hr
    | status => exact absurd (by simp) hr
    | _ => rfl
  bytes_kept _ _ := rfl
  params_kept := rfl
  resets_kept := rfl
  pending_kept := rfl
  reply_kept := rfl

/-! ### What PACK and UNPACK answer -/

theorem exec_pack_of_fieldLegal (h : s.fieldLegal q) (hv : s.valueFits) :
    exec (.pack q) s = .next (s.packField q).ok := by
  have hnone := (fieldError_eq_none_iff .pack q s).2 ⟨h, fun _ => hv⟩
  simp only [exec, execPack, hnone]

theorem exec_unpack_of_fieldLegal (h : s.fieldLegal q) :
    exec (.unpack q) s = .next (s.setValue (BitVec.ofNat 64 (s.unpackField q))).ok := by
  have hnone := (fieldError_eq_none_iff .unpack q s).2 ⟨h, nofun⟩
  simp only [exec, execUnpack, hnone]

theorem exec_pack_of_fieldError (h : fieldError .pack q s = some k) : exec (.pack q) s = .next (reported s k.code) := by
  simp only [exec, execPack, h, State.raise_eq_reported]

theorem exec_unpack_of_fieldError (h : fieldError .unpack q s = some k) :
    exec (.unpack q) s = .next (reported s k.code) := by
  simp only [exec, execUnpack, h, State.raise_eq_reported]

/-! ### The first test that fails (R120, 60_exceptions.md R230) -/

theorem fieldError_of_start_lt_endBit (h : s.start.toNat < s.endBit.toNat) :
    fieldError op q s = some .invalidRange := by
  simp [fieldError, check, h]

theorem fieldError_of_wide (hend : s.endBit.toNat ≤ s.start.toNat) (h : 64 < s.fieldWidth) :
    fieldError op q s = some .rangeExceeded := by
  unfold State.fieldWidth at h
  simp [fieldError, check, Nat.not_lt.2 hend, h]

theorem fieldError_of_not_valueFits (hend : s.endBit.toNat ≤ s.start.toNat) (hwidth : s.fieldWidth ≤ 64)
    (h : ¬ s.valueFits) : fieldError .pack q s = some .rangeExceeded := by
  simp only [State.valueFits, Classical.not_imp, Nat.not_lt, State.fieldWidth] at h hwidth
  simp [fieldError, check, Nat.not_lt.2 hend, Nat.not_lt.2 hwidth, h]

/-- Past the tests of the width and the value come LEN, START and the span. -/
theorem fieldError_of_width_and_value (hend : s.endBit.toNat ≤ s.start.toNat) (hwidth : s.fieldWidth ≤ 64)
    (hv : op = .pack → s.valueFits) :
    fieldError op q s =
      if (q.le ∨ q.lsw) ∧ s.len.toNat % 4 ≠ 0 then some .badLength
      else if 8 * s.len.toNat ≤ s.start.toNat ∨ s.bufBytes < s.base.toNat + s.len.toNat then some .bufferBounds
      else none := by
  have hval : ¬ (op = .pack ∧ s.start.toNat - s.endBit.toNat + 1 < 64 ∧
      s.value.toNat ≥ 2 ^ (s.start.toNat - s.endBit.toNat + 1)) :=
    fun ⟨hop, hlt, hge⟩ => Nat.not_lt.2 hge (hv hop hlt)
  unfold State.fieldWidth at hwidth
  rw [fieldError, check, if_neg (by omega), if_neg (by omega), if_neg hval]
  by_cases hlen : (q.le ∨ q.lsw) ∧ s.len.toNat % 4 ≠ 0
  · rw [if_pos hlen, if_pos hlen, Option.some_or]
  · rw [if_neg hlen, if_neg hlen]
    by_cases hstart : 8 * s.len.toNat ≤ s.start.toNat <;> simp [hstart]

end

/-- Settles O25: a bit of BUF is the place of a bit of the field, or PACK keeps it. -/
theorem packSetsExactlyTheField : Obligations.PackSetsExactlyTheField := by
  intro q s h hv
  have ⟨_, _, _, hstart, _⟩ := h
  refine ⟨(s.packField q).ok, exec_pack_of_fieldLegal h hv, rfl, fun L hin => ?_,
    fun a p hp hout => State.packField_bitAt_of_not_inField h hp hout, State.packField_ok_changesOnly h⟩
  have hbit := State.packField_bitAt_bitAddr h (L := L) (by have := hin.2; omega)
  rwa [if_pos hin] at hbit

/-- Settles O26: the one next state is that of the boxes packed in turn. -/
theorem packWritesPackOfTheBuffer : Obligations.PackWritesPackOfTheBuffer := by
  intro q s t h hv hexec
  rw [exec_pack_of_fieldLegal h hv] at hexec
  obtain rfl := Host.Outcome.next.inj hexec
  exact State.memRead_packField h

/-- Settles O27: `Unpack` has no bit at or above the field's width, so VALUE holds it whole. -/
theorem unpackReadsExactlyTheField : Obligations.UnpackReadsExactlyTheField := by
  intro q s h
  refine ⟨_, exec_unpack_of_fieldLegal h, rfl, fun k => ?_, State.setValue_ok_changesOnly s _⟩
  have ⟨_, hwidth, _⟩ := h
  rw [State.ok_value, State.setValue_value, BitVec.getLsbD_ofNat, State.unpackField_testBit h]
  by_cases hk : k < s.fieldWidth
  · have hk64 : k < 64 := by omega
    rw [decide_eq_true hk64, Bool.true_and]
  · rw [decide_eq_false hk, Bool.false_and, Bool.and_false]

/-- Settles O28: each clause is the first test that fails, which both commands only report. -/
theorem packAndUnpackErrors : Obligations.PackAndUnpackErrors := by
  intro q s
  refine ⟨fun hlt => ?_, fun hend hwide => ?_, fun hend hwidth hv => ?_, fun hend hwidth hquirk hlen => ?_,
    fun hend hwidth hlen hbounds => ?_⟩
  · exact ⟨exec_pack_of_fieldError (fieldError_of_start_lt_endBit hlt),
      exec_unpack_of_fieldError (fieldError_of_start_lt_endBit hlt)⟩
  · exact ⟨exec_pack_of_fieldError (fieldError_of_wide hend hwide),
      exec_unpack_of_fieldError (fieldError_of_wide hend hwide)⟩
  · exact exec_pack_of_fieldError (fieldError_of_not_valueFits hend hwidth hv)
  · have herr : ∀ op, (op = .pack → s.valueFits) → fieldError op q s = some .badLength := fun op hv => by
      rw [fieldError_of_width_and_value hend hwidth hv, if_pos ⟨hquirk, hlen⟩]
    exact ⟨fun hv => exec_pack_of_fieldError (herr _ fun _ => hv), exec_unpack_of_fieldError (herr _ nofun)⟩
  · have herr : ∀ op, (op = .pack → s.valueFits) → fieldError op q s = some .bufferBounds := fun op hv => by
      rw [fieldError_of_width_and_value hend hwidth hv, if_neg fun hbad => hbad.2 (hlen hbad.1), if_pos hbounds]
    exact ⟨fun hv => exec_pack_of_fieldError (herr _ fun _ => hv), exec_unpack_of_fieldError (herr _ nofun)⟩

end Sys2Proof.Machine
end

section
/-! PROOFS. The statements of 41_crc32.md. `Norm` is a permutation of the positions of a string, so that a changed byte of
a span is one changed byte of the message; each step of the shift register is one to one, so that two messages that differ in
one byte leave different registers. -/

namespace Sys2Proof.Machine

/-! ### `Norm`, byte by byte (R142) -/

section
variable {s : List Byte} {i j k : Nat}

/-- A word of a stream is big-endian: its byte `j`, from the least significant, is byte `3 - j` of the string. -/
theorem wordOf_extractLsb' (hlen : s.length = 4) (hj : j < 4) : (wordOf s).extractLsb' (8 * j) 8 = s.getD (3 - j) 0 := by
  refine BitVec.eq_of_getLsbD_eq fun p hp => ?_
  have hbox : physAddr ((8 * j + p) / 8) s.length lswOnly = 3 - j := by
    simp only [physAddr, lswOnly, Bool.false_eq_true, if_false, if_true]
    omega
  have hbit : physBit ((8 * j + p) % 8) lswOnly = p := by
    simp only [physBit, lswOnly, Bool.false_eq_true, if_false]
    omega
  have hunpack : (unpack s 31 0 lswOnly).testBit (8 * j + p) = (s.getD (3 - j) 0).getLsbD p := by
    rw [unpack_testBit (by omega), decide_eq_true (by omega), Bool.true_and, Nat.zero_add, logicalBit, hbox, hbit, bitAt]
  rw [BitVec.getLsbD_extractLsb', wordOf, BitVec.getLsbD_ofNat, hunpack, decide_eq_true hp,
    decide_eq_true (show 8 * j + p < 32 by omega), Bool.true_and, Bool.true_and]

theorem bytesLsbFirst_wordOf (a b c d : Byte) : bytesLsbFirst (wordOf [a, b, c, d]) = [d, c, b, a] := by
  have hbyte : ∀ j < 4, (wordOf [a, b, c, d]).extractLsb' (8 * j) 8 = [a, b, c, d].getD (3 - j) 0 :=
    fun j hj => wordOf_extractLsb' rfl hj
  simpa [bytesLsbFirst] using ⟨hbyte 0 (by omega), hbyte 1 (by omega), hbyte 2 (by omega), hbyte 3 (by omega)⟩

@[simp] theorem norm_nil : norm [] = [] := rfl

@[simp] theorem norm_cons_word (a b c d : Byte) (rest : List Byte) :
    norm (a :: b :: c :: d :: rest) = d :: c :: b :: a :: norm rest := by
  rw [norm, bytesLsbFirst_wordOf]
  rfl

/-- Where `Norm` moves byte `k`: to the mirrored place in its group of four. -/
def mirror (k : Nat) : Nat := 4 * (k / 4) + (3 - k % 4)

theorem mirror_group (hj : j < 4) : mirror (4 * i + j) = 4 * i + (3 - j) := by
  unfold mirror
  omega

theorem mirror_add_four (k : Nat) : mirror (k + 4) = mirror k + 4 := by
  unfold mirror
  omega

theorem mirror_mirror (k : Nat) : mirror (mirror k) = k := by
  unfold mirror
  omega

theorem mirror_lt_iff {n : Nat} (h : n % 4 = 0) : mirror k < n ↔ k < n := by
  unfold mirror
  omega

theorem mirror_eq_iff : mirror i = k ↔ i = mirror k :=
  ⟨fun h => h ▸ (mirror_mirror i).symm, fun h => h ▸ mirror_mirror k⟩

/-- A string whose length is a multiple of 4 is empty or a word before such a string. -/
theorem words_induction {P : List Byte → Prop} (hnil : P [])
    (hcons : ∀ a b c d rest, P rest → P (a :: b :: c :: d :: rest)) : ∀ s : List Byte, s.length % 4 = 0 → P s
  | [], _ => hnil
  | a :: b :: c :: d :: rest, h =>
    hcons a b c d rest (words_induction hnil hcons rest (by simp only [List.length_cons] at h; omega))
  | [_], h | [_, _], h | [_, _, _], h => nomatch h

theorem norm_length (h : s.length % 4 = 0) : (norm s).length = s.length := by
  refine words_induction (P := fun s => (norm s).length = s.length) rfl (fun a b c d rest ih => ?_) s h
  simp [ih]

theorem norm_getElem? (h : s.length % 4 = 0) (k : Nat) : (norm s)[k]? = s[mirror k]? := by
  refine words_induction (P := fun s => ∀ k : Nat, (norm s)[k]? = s[mirror k]?) (by simp)
    (fun a b c d rest ih k => ?_) s h k
  match k with
  | 0 | 1 | 2 | 3 => simp [mirror]
  | k + 4 => simp [mirror_add_four, ih]

/-- Replacing a byte of a string replaces the mirrored byte of `Norm`. -/
theorem norm_set (h : s.length % 4 = 0) (i : Nat) (x : Byte) : norm (s.set i x) = (norm s).set (mirror i) x := by
  refine List.ext_getElem? fun k => ?_
  rw [norm_getElem? (by simpa using h), List.getElem?_set, List.getElem?_set, norm_getElem? h, norm_length h]
  by_cases hk : i = mirror k
  · subst hk
    simp [mirror_mirror, mirror_lt_iff h]
  · rw [if_neg hk, if_neg (mirror_eq_iff.not.2 hk)]

end

/-! ### The shift register is one to one (R141) -/

theorem crcBit_getLsbD (c : Word) (k : Nat) :
    (crcBit c).getLsbD k = (c.getLsbD (k + 1) ^^ (c.getLsbD 0 && crcPoly.getLsbD k)) := by
  unfold crcBit
  cases hlow : c.getLsbD 0 <;> simp [Nat.add_comm]

/-- A shift loses no bit: bit 0 of the register comes back as bit 31, which the generator has and the shift clears. -/
theorem crcBit_injective : Function.Injective crcBit := by
  intro c c' h
  have hbit : ∀ k, (c.getLsbD (k + 1) ^^ (c.getLsbD 0 && crcPoly.getLsbD k)) =
      (c'.getLsbD (k + 1) ^^ (c'.getLsbD 0 && crcPoly.getLsbD k)) := fun k => by
    rw [← crcBit_getLsbD, ← crcBit_getLsbD, h]
  have hlow : c.getLsbD 0 = c'.getLsbD 0 := by
    have htop : crcPoly.getLsbD 31 = true := by decide
    have hout : ∀ c : Word, c.getLsbD (31 + 1) = false := fun c => BitVec.getLsbD_of_ge c 32 (Nat.le_refl 32)
    have hbit := hbit 31
    rwa [hout, hout, htop, Bool.false_xor, Bool.false_xor, Bool.and_true, Bool.and_true] at hbit
  refine BitVec.eq_of_getLsbD_eq fun k _ => ?_
  cases k with
  | zero => exact hlow
  | succ k =>
    have hbit := hbit k
    rwa [hlow, Bool.xor_left_inj] at hbit

theorem crcByte_eq_iff_xor {c c' : Word} {m m' : Byte} :
    crcByte c m = crcByte c' m' ↔ c ^^^ m.setWidth 32 = c' ^^^ m'.setWidth 32 :=
  (crcBit_injective.iterate 8).eq_iff

theorem crcByte_left_inj {c c' : Word} {m : Byte} : crcByte c m = crcByte c' m ↔ c = c' := by
  rw [crcByte_eq_iff_xor, BitVec.xor_left_inj]

theorem crcByte_right_inj {c : Word} {m m' : Byte} : crcByte c m = crcByte c m' ↔ m = m' := by
  rw [crcByte_eq_iff_xor, BitVec.xor_right_inj]
  refine ⟨fun h => ?_, fun h => h ▸ rfl⟩
  simpa using congrArg (BitVec.setWidth 8) h

/-- A rest of the message takes different registers to different registers. -/
theorem foldl_crcByte_left_inj {c c' : Word} (m : List Byte) : m.foldl crcByte c = m.foldl crcByte c' ↔ c = c' := by
  induction m generalizing c c' with
  | nil => rfl
  | cons b rest ih => exact ih.trans crcByte_left_inj

/-- Messages that differ in one byte leave different registers. -/
theorem foldl_crcByte_set_inj {c : Word} {m : List Byte} {i : Nat} {x : Byte} (hi : i < m.length) :
    (m.set i x).foldl crcByte c = m.foldl crcByte c ↔ x = m[i] := by
  induction m generalizing c i with
  | nil => exact absurd hi (Nat.not_lt_zero i)
  | cons b rest ih =>
    cases i with
    | zero => exact (foldl_crcByte_left_inj rest).trans crcByte_right_inj
    | succ i => exact ih (Nat.lt_of_succ_lt_succ hi)

/-- Another value of one byte of a span changes its `Crc`. -/
theorem crcOf_set_inj {s : List Byte} {i : Nat} {x : Byte} (h : s.length % 4 = 0) (hi : i < s.length) :
    crcOf (s.set i x) = crcOf s ↔ x = s[i] := by
  have hmirror : mirror i < (norm s).length := by rwa [norm_length h, mirror_lt_iff h]
  have hbyte : (norm s)[mirror i] = s[i] := by
    rw [List.getElem_eq_iff, norm_getElem? h, mirror_mirror, List.getElem?_eq_getElem hi]
  rw [crcOf, crcOf, crc32Std, crc32Std, BitVec.xor_left_inj, norm_set h, foldl_crcByte_set_inj hmirror, hbyte]

theorem crcOf_nil : crcOf [] = 0 := by
  unfold crcOf
  decide

/-! ### What CRC32 answers (R146) -/

section
variable {s : State}

/-- The test of LEN comes first, then that of the span. -/
theorem exec_crc32_of_badLength (h : s.len.toNat % 4 ≠ 0) : exec .crc32 s = .next (reported s 0x08) :=
  if_pos h

theorem exec_crc32_of_bufferBounds (h : s.len.toNat % 4 = 0) (hspan : s.bufBytes < s.base.toNat + s.len.toNat) :
    exec .crc32 s = .next (reported s 0x09) :=
  (if_neg (not_not.2 h)).trans (if_pos hspan)

theorem exec_crc32_of_span (h : s.len.toNat % 4 = 0) (hspan : s.base.toNat + s.len.toNat ≤ s.bufBytes) :
    exec .crc32 s = .next { s with crc := crcOf (s.memRead s.base.toNat s.len.toNat), status := 0 } :=
  (if_neg (not_not.2 h)).trans (if_neg (Nat.not_lt.2 hspan))

end

/-- Settles O35, from the place to which `Norm` moves each byte. -/
theorem normReversesEachWord : Obligations.NormReversesEachWord :=
  fun _ h => ⟨norm_length h, fun i j _ hj => by rw [norm_getElem? h, mirror_group hj]⟩

/-- Settles O37: the inverted bit gives the byte another value. -/
theorem crcDetectsEveryFlippedBit : Obligations.CrcDetectsEveryFlippedBit := by
  intro s i b h hi hb heq
  have hbyte : s.getD i 0 ^^^ 1#8 <<< b = s[i] := (crcOf_set_inj h hi).1 heq
  rw [List.getD_eq_getElem _ _ hi] at hbyte
  have hbit := congrArg (BitVec.getLsbD · b) hbyte
  simp [hb] at hbit

/-- Settles O34: the two tests in their order; an empty span reads the empty string. -/
theorem crc32ChecksTheSpan : Obligations.Crc32ChecksTheSpan := by
  refine ⟨rfl, fun s => ⟨fun hlen hbase => ?_, exec_crc32_of_span, exec_crc32_of_badLength, exec_crc32_of_bufferBounds⟩⟩
  have hzero : s.len.toNat = 0 := by simp [hlen]
  rw [exec_crc32_of_span (by rw [hzero]) (by rwa [hzero]), hzero]
  simp only [State.memRead, List.range_zero, List.map_nil, crcOf_nil]

/-- Settles O36: `Norm` by its groups, then the shift register run over the closed messages. -/
theorem crcEdgeValues : Obligations.CrcEdgeValues := by
  simp only [Obligations.CrcEdgeValues, crcOf, norm_nil, norm_cons_word]
  simp [crc32Std, crcByte, crcBit, crcPoly]

end Sys2Proof.Machine
end

section
/-! PROOFS. The statements of 42_framer_emit.md about the bytes and the commands. Each PUT command past its tests is one
element stored, in mode PACK only, and one move of the cursor. -/

namespace Sys2Proof.Machine

/-! ### The bytes of the elements (R155, R157) -/

/-- The block id and the length fill the header's first 8 bytes. -/
theorem hdrPrefix_eq_header8 (blk : Byte) (len : BitVec 24) : hdrPrefix blk len = header8 blk len ++ [0, 0, 0, 0] := by
  have hblk : boxes 31 24 = [3] := by decide
  have hlen : boxes 55 32 = [6, 5, 4] := by decide
  simp [hdrPrefix, pack, hblk, hlen, physAddr, lswOnly, packByte, boxTop, boxBottom, valueBottom, valueTop, bitsOf,
    reflect, header8, List.replicate]
  refine ⟨?_, ?_, ?_, ?_⟩ <;> apply BitVec.eq_of_toNat_eq <;> simp [Nat.shiftRight_eq_div_pow, blk.isLt]

/-- Packing bits 95 to 64 puts a word after the first 8 bytes. -/
theorem pack_third_word (a b c d e f g h : Byte) (w : Word) :
    pack ([a, b, c, d, e, f, g, h] ++ [0, 0, 0, 0]) w.toNat 95 64 lswOnly =
      [a, b, c, d, e, f, g, h] ++ bigEndian4 w := by
  have hboxes : boxes 95 64 = [11, 10, 9, 8] := by decide
  simp [pack, hboxes, physAddr, lswOnly, packByte, boxTop, boxBottom, valueBottom, valueTop, bitsOf, reflect,
    bigEndian4]
  refine ⟨?_, ?_, ?_, ?_⟩ <;> apply BitVec.eq_of_toNat_eq <;> simp [Nat.shiftRight_eq_div_pow]

theorem hdrBytes_eq (blk : Byte) (len : BitVec 24) :
    hdrBytes blk len = header8 blk len ++ bigEndian4 (crcOf (header8 blk len)) := by
  rw [hdrBytes, hdrCrc, hdrPrefix_eq_header8]
  exact pack_third_word _ _ _ _ _ _ _ _ _

theorem hdrBytes_take_eight (blk : Byte) (len : BitVec 24) : (hdrBytes blk len).take 8 = header8 blk len := by
  rw [hdrBytes_eq]
  rfl

theorem sentinelBytes_eq (p : Params) :
    sentinelBytes p = p.sentinelBlkid :: List.replicate 7 0 ++ bigEndian4 p.sentinelCrc := rfl

/-- Settles O39: the header field by field; the sentinel is written out in the model. -/
theorem headerBytesAreTheWireFormat : Obligations.HeaderBytesAreTheWireFormat := ⟨hdrBytes_eq, sentinelBytes_eq⟩

/-! ### The length of a stream (R170) -/

theorem blockBytes_length (t : Block) : (blockBytes t).length = blockLength t := by
  unfold blockBytes blockLength
  split_ifs
  · rfl
  · simp [Nat.add_assoc]

/-- Settles O51, element by element. -/
theorem frameHasTheComputedLength : Obligations.FrameHasTheComputedLength := by
  intro p devid blocks
  simp [frame, getLength, blockBytes_length, Nat.add_assoc]

/-! ### What updates leave unchanged -/

section
variable {regs regs' : List Reg} {stored stored' : Nat → Prop} {s t u : State}

theorem ChangesOnly.refl (s : State) : ChangesOnly regs stored s s :=
  ⟨fun _ _ => rfl, fun _ _ => rfl, rfl, rfl, rfl, rfl⟩

theorem ChangesOnly.mono (h : ChangesOnly regs stored s t) (hregs : regs ⊆ regs')
    (hstored : ∀ a, stored a → stored' a) : ChangesOnly regs' stored' s t :=
  { h with
    regs_kept := fun r hr => h.regs_kept r fun hmem => hr (hregs hmem)
    bytes_kept := fun a ha => h.bytes_kept a fun hmem => ha (hstored a hmem) }

theorem ChangesOnly.trans (h : ChangesOnly regs stored s t) (h' : ChangesOnly regs stored t u) :
    ChangesOnly regs stored s u where
  regs_kept r hr := (h'.regs_kept r hr).trans (h.regs_kept r hr)
  bytes_kept a ha := (h'.bytes_kept a ha).trans (h.bytes_kept a ha)
  params_kept := h'.params_kept.trans h.params_kept
  resets_kept := h'.resets_kept.trans h.resets_kept
  pending_kept := h'.pending_kept.trans h.pending_kept
  reply_kept := h'.reply_kept.trans h.reply_kept

theorem State.memWrite_changesOnly (s : State) {a n : Nat} {bs : List Byte} (hlen : bs.length = n) :
    ChangesOnly [] (inSpan a n) s (s.memWrite a bs) where
  regs_kept r _ := by cases r <;> rfl
  bytes_kept x hx := (State.bufByte_memWrite s a x bs).trans (if_neg (hlen ▸ hx))
  params_kept := rfl
  resets_kept := rfl
  pending_kept := rfl
  reply_kept := rfl

theorem State.setCrc_changesOnly (s : State) (c : Word) : ChangesOnly [.crc] noByte s (s.setCrc c) where
  regs_kept r hr := by
    cases r with
    | crc => exact absurd (List.mem_singleton_self _) hr
    | _ => rfl
  bytes_kept _ _ := rfl
  params_kept := rfl
  resets_kept := rfl
  pending_kept := rfl
  reply_kept := rfl

/-- The end of every framing command that completes (R161 to R164). -/
theorem State.advance_ok_changesOnly (s : State) (p : Nat) (st : BitVec 3) :
    ChangesOnly [.pos, .frstate, .status] noByte s (s.advance p st).ok where
  regs_kept r hr := by
    cases r with
    | pos | frstate | status => exact absurd (by simp) hr
    | _ => rfl
  bytes_kept _ _ := rfl
  params_kept := rfl
  resets_kept := rfl
  pending_kept := rfl
  reply_kept := rfl

theorem State.beginStream_ok_changesOnly (s : State) (m : BitVec 2) (lim : Nat) :
    ChangesOnly [.pos, .limit, .frmode, .seen, .ecnt, .frstate, .status] noByte s (s.beginStream m lim).ok where
  regs_kept r hr := by
    cases r with
    | pos | limit | frmode | seen | ecnt | frstate | status => exact absurd (by simp) hr
    | _ => rfl
  bytes_kept _ _ := rfl
  params_kept := rfl
  resets_kept := rfl
  pending_kept := rfl
  reply_kept := rfl

end

/-! ### FR_BEGIN (R160) -/

section
variable {s : State} {m : BitVec 2}

theorem State.bufBytes_lt (s : State) : s.bufBytes < 2 ^ 32 := by
  have hextra := s.params.bufExtra.isLt
  simp only [State.bufBytes, Params.bufBytes]
  omega

theorem exec_frBegin_of_span (hm : m = FrMode.pack ∨ m = FrMode.unpack)
    (hspan : s.base.toNat + s.len.toNat ≤ s.bufBytes) :
    exec (.frBegin m) s = .next (s.beginStream m (s.base.toNat + s.len.toNat)).ok :=
  (if_pos hm).trans (if_neg (Nat.not_lt.2 hspan))

theorem exec_frBegin_of_bufferBounds (hm : m = FrMode.pack ∨ m = FrMode.unpack)
    (hspan : s.bufBytes < s.base.toNat + s.len.toNat) : exec (.frBegin m) s = .next (reported s 0x09) :=
  (if_pos hm).trans (if_pos hspan)

theorem exec_frBegin_length : exec (.frBegin FrMode.length) s = .next (s.beginStream FrMode.length (2 ^ 32 - 1)).ok :=
  rfl

theorem State.beginStream_ok_limit_toNat {lim : Nat} (h : lim < 2 ^ 32) :
    (s.beginStream m lim).ok.limit.toNat = lim := by
  rw [State.ok_limit, State.beginStream_limit, BitVec.toNat_ofNat, Nat.mod_eq_of_lt h]

end

/-- The words of FR_BEGIN. -/
theorem decode_frBegin : ∀ m : BitVec 2, m.toNat ≤ 2 →
    decode (BitVec.ofNat 32 (0x10 + 4096 * m.toNat)) = .ok (.frBegin m) := by
  decide

/-- Settles O38: the three words decode, and each mode's test decides between the stream opened and the report. -/
theorem frBeginStartsAStream : Obligations.FrBeginStartsAStream := by
  refine ⟨decode_frBegin, fun s m => ⟨fun hm hspan => ?_, exec_frBegin_of_bufferBounds, fun hm => ?_⟩⟩
  · exact ⟨_, exec_frBegin_of_span hm hspan, rfl, rfl,
      State.beginStream_ok_limit_toNat (Nat.lt_of_le_of_lt hspan s.bufBytes_lt), rfl, rfl, rfl, rfl,
      State.beginStream_ok_changesOnly s m _⟩
  · subst hm
    exact ⟨_, exec_frBegin_length, rfl, rfl, State.beginStream_ok_limit_toNat (by decide), rfl, rfl, rfl, rfl,
      State.beginStream_ok_changesOnly s _ _⟩

/-! ### The tests of the PUT commands (R159, 60_exceptions.md R230) -/

section
variable {s : State} {st : BitVec 3} {n : Nat}

theorem State.putReady_eq_false_iff : s.putReady st = false ↔ s.frmode = FrMode.unpack ∨ s.frstate ≠ st := by
  rw [← Bool.not_eq_true, State.putReady_iff, not_and_or, ne_eq, not_not]

/-- The first test, of the sequence, that all four commands make. -/
theorem exec_put_of_badSequence {i : Instr}
    (hi : (i, st) ∈ [(Instr.putDevid, FrState.devid), (.putHdr, FrState.hdr), (.putBodycrc, FrState.body),
      (.putEnd, FrState.hdr)])
    (h : s.frmode = FrMode.unpack ∨ s.frstate ≠ st) : exec i s = .next (reported s 0x0A) := by
  have hready : (!s.putReady st) = true := by rw [State.putReady_eq_false_iff.2 h, Bool.not_false]
  simp only [List.mem_cons, Prod.mk.injEq, List.not_mem_nil, or_false] at hi
  rcases hi with ⟨rfl, rfl⟩ | ⟨rfl, rfl⟩ | ⟨rfl, rfl⟩ | ⟨rfl, rfl⟩ <;> exact if_pos hready

theorem State.canEmit.putReady (h : s.canEmit st n) : s.putReady st = true :=
  (s.putReady_iff st).2 ⟨h.1, h.2.1⟩

theorem not_not_putReady (h : s.putReady st = true) : ¬ (!s.putReady st) = true := by simp [h]

/-- The commands past the test of the sequence: the room, and before it HLEN where the element has a body. -/
theorem exec_putDevid_of_ready (h : s.putReady FrState.devid = true) :
    exec .putDevid s =
      if s.pos.toNat + 4 > s.limit.toNat then .next (s.raise .bufferBounds)
      else s.emit 4 (fun t => t.memWrite s.pos.toNat (wordBytes s.devid))
        (fun t => (t.advance (s.pos.toNat + 4) FrState.hdr).ok) :=
  if_neg (not_not_putReady h)

theorem exec_putHdr_of_ready (h : s.putReady FrState.hdr = true) :
    exec .putHdr s =
      if s.hlen = 0 then .next (s.raise .badOperand)
      else if s.pos.toNat + 12 + s.bodyLen > s.limit.toNat then .next (s.raise .bufferBounds)
      else s.emit (12 + s.bodyLen)
        (fun t =>
          ((t.memWrite s.pos.toNat (hdrBytes s.blkid s.hlen)).memWrite (s.pos.toNat + 12)
            (List.replicate s.bodyLen 0)).setCrc (crcOf ((hdrBytes s.blkid s.hlen).take 8)))
        (fun t => (t.advance (s.pos.toNat + 12) FrState.body).ok) :=
  if_neg (not_not_putReady h)

theorem exec_putBodycrc_of_ready (h : s.putReady FrState.body = true) :
    exec .putBodycrc s =
      if s.hlen = 0 then .next (s.raise .badOperand)
      else if s.pos.toNat + s.bodyLen + 4 > s.limit.toNat then .next (s.raise .bufferBounds)
      else s.emit (s.bodyLen + 4)
        (fun t => (t.memWrite (s.pos.toNat + s.bodyLen) (wordBytes s.bodyCrc)).setCrc s.bodyCrc)
        (fun t => (t.advance (s.pos.toNat + s.bodyLen + 4) FrState.hdr).ok) :=
  if_neg (not_not_putReady h)

theorem exec_putEnd_of_ready (h : s.putReady FrState.hdr = true) :
    exec .putEnd s =
      if s.pos.toNat + 12 > s.limit.toNat then .next (s.raise .bufferBounds)
      else s.emit 12 (fun t => t.memWrite s.pos.toNat (sentinelBytes s.params))
        (fun t => (t.advance (s.pos.toNat + 12) FrState.done).ok) :=
  if_neg (not_not_putReady h)

end

/-- Settles O44: the tests in their order, each command's first failing one reported. -/
theorem putErrors : Obligations.PutErrors := by
  intro s
  have hready : ∀ st, s.frmode ≠ FrMode.unpack → s.frstate = st → s.putReady st = true :=
    fun st hmode hst => (s.putReady_iff st).2 ⟨hmode, hst⟩
  refine ⟨fun row hrow h => exec_put_of_badSequence hrow h, fun hmode hzero => ⟨fun hst => ?_, fun hst => ?_⟩,
    fun hmode => ⟨fun hst hroom => ?_, fun hst hlen hroom => ?_, fun hst hlen hroom => ?_, fun hst hroom => ?_⟩⟩
  · exact (exec_putHdr_of_ready (hready _ hmode hst)).trans (if_pos hzero)
  · exact (exec_putBodycrc_of_ready (hready _ hmode hst)).trans (if_pos hzero)
  · exact (exec_putDevid_of_ready (hready _ hmode hst)).trans (if_pos hroom)
  · exact (exec_putHdr_of_ready (hready _ hmode hst)).trans ((if_neg hlen).trans (if_pos hroom))
  · exact (exec_putBodycrc_of_ready (hready _ hmode hst)).trans ((if_neg hlen).trans (if_pos hroom))
  · exact (exec_putEnd_of_ready (hready _ hmode hst)).trans (if_pos hroom)

/-! ### The PUT commands that complete (R161 to R164) -/

/-- What a PUT command has stored before the cursor moves: in mode PACK what `write` stores, else nothing. -/
def State.storedBy (s : State) (write : State → State) : State := if s.frmode = FrMode.pack then write s else s

section
variable {s : State} {st : BitVec 3} {n : Nat} {write finish : State → State}

theorem State.storedBy_of_pack (h : s.frmode = FrMode.pack) : s.storedBy write = write s := if_pos h

theorem State.storedBy_of_not_pack (h : s.frmode ≠ FrMode.pack) : s.storedBy write = s := if_neg h

/-- An element with room is stored and finished: below LIMIT an open stream in mode PACK lies in BUF. -/
theorem State.Inv.emit_eq_next (hinv : s.Inv) (hcan : s.canEmit st n)
    (hst : st ∈ [FrState.devid, FrState.hdr, FrState.body]) :
    s.emit n write finish = .next (finish (s.storedBy write)) := by
  obtain ⟨-, rfl, hroom⟩ := hcan
  by_cases hpack : s.frmode = FrMode.pack
  · have hspan := hinv.element_in_buf (by rw [hpack]; decide) hst hroom
    exact (s.emit_eq_next _ _ _ _).2 (.inl ⟨hpack, hspan, by rw [State.storedBy_of_pack hpack]⟩)
  · exact (s.emit_eq_next _ _ _ _).2 (.inr ⟨hpack, by rw [State.storedBy_of_not_pack hpack]⟩)

theorem State.advance_ok_pos_toNat {u : State} (hroom : s.pos.toNat + n ≤ s.limit.toNat) :
    (u.advance (s.pos.toNat + n) st).ok.pos.toNat = s.pos.toNat + n :=
  State.advance_pos_toNat (u := u) st hroom

/-- The frame of a PUT command, from that of what it stores in mode PACK. -/
theorem State.storedBy_advance_changesOnly {regs : List Reg} {span : Nat → Prop} {p : Nat}
    (h : ChangesOnly regs span s (write s)) :
    ChangesOnly ([.pos, .frstate, .status] ++ regs) (fun a => s.frmode = FrMode.pack ∧ span a) s
      ((s.storedBy write).advance p st).ok := by
  have hstored : ChangesOnly ([.pos, .frstate, .status] ++ regs) (fun a => s.frmode = FrMode.pack ∧ span a) s
      (s.storedBy write) := by
    by_cases hpack : s.frmode = FrMode.pack
    · rw [State.storedBy_of_pack hpack]
      exact h.mono (List.subset_append_right _ _) fun a ha => ⟨hpack, ha⟩
    · rw [State.storedBy_of_not_pack hpack]
      exact .refl s
  exact hstored.trans ((State.advance_ok_changesOnly _ p st).mono (List.subset_append_left _ _) nofun)

end

/-- Settles O40: the element is DEVID as a word of a stream. -/
theorem putDevidEmitsTheDeviceId : Obligations.PutDevidEmitsTheDeviceId := by
  intro s hinv hcan
  have ⟨_, _, hroom⟩ := hcan
  have hexec := ((exec_putDevid_of_ready hcan.putReady).trans (if_neg (Nat.not_lt.2 hroom))).trans
    (hinv.emit_eq_next hcan (by simp))
  refine ⟨_, hexec, rfl, State.advance_ok_pos_toNat hroom, rfl, fun hpack => ?_,
    State.storedBy_advance_changesOnly (s.memWrite_changesOnly (wordBytes_length _))⟩
  rw [State.storedBy_of_pack hpack, State.ok_memRead, State.advance_memRead,
    State.memRead_memWrite_same _ _ _ _ (wordBytes_length _).symm, wordBytes_eq_bigEndian4]

/-- What PUT_HDR stores: the header and, behind it, the zeroed body (R162). -/
theorem State.storeHdr_changesOnly (s : State) (c : Word) :
    ChangesOnly [.crc] (inSpan s.pos.toNat (12 + s.bodyLen)) s
      (((s.memWrite s.pos.toNat (hdrBytes s.blkid s.hlen)).memWrite (s.pos.toNat + 12)
        (List.replicate s.bodyLen 0)).setCrc c) := by
  have hheader := s.memWrite_changesOnly (a := s.pos.toNat) (hdrBytes_length s.blkid s.hlen)
  have hbody := (s.memWrite s.pos.toNat (hdrBytes s.blkid s.hlen)).memWrite_changesOnly (a := s.pos.toNat + 12)
    (List.length_replicate (n := s.bodyLen) (a := (0 : Byte)))
  refine ((hheader.mono (List.nil_subset _) fun a ha => ?_).trans (hbody.mono (List.nil_subset _) fun a ha => ?_)).trans
    ((State.setCrc_changesOnly _ c).mono (List.Subset.refl _) nofun)
  · exact ⟨ha.1, by have := ha.2; omega⟩
  · exact ⟨by have := ha.1; omega, by have := ha.2; omega⟩

/-- Settles O41: the zeroed body lies behind the header, so that both are read back. -/
theorem putHdrEmitsTheHeaderAndZeroesTheBody : Obligations.PutHdrEmitsTheHeaderAndZeroesTheBody := by
  intro s hinv hlen hcan
  have ⟨_, _, hroom⟩ := hcan
  rw [← Nat.add_assoc] at hroom
  have hexec := ((exec_putHdr_of_ready hcan.putReady).trans
    ((if_neg hlen).trans (if_neg (Nat.not_lt.2 hroom)))).trans (hinv.emit_eq_next hcan (by simp))
  refine ⟨_, hexec, rfl, State.advance_ok_pos_toNat (by omega), rfl, fun hpack => ⟨?_, ?_, ?_⟩, fun hpack => ?_,
    State.storedBy_advance_changesOnly (s.storeHdr_changesOnly _)⟩
  · rw [State.storedBy_of_pack hpack, State.ok_memRead, State.advance_memRead, State.setCrc_memRead,
      State.memRead_memWrite_disjoint _ _ _ _ _ (.inl (Nat.le_refl _)),
      State.memRead_memWrite_same _ _ _ _ (hdrBytes_length _ _).symm, hdrBytes_eq]
  · rw [State.storedBy_of_pack hpack, State.ok_memRead, State.advance_memRead, State.setCrc_memRead,
      State.memRead_memWrite_same _ _ _ _ List.length_replicate.symm]
  · rw [State.storedBy_of_pack hpack, State.ok_crc, State.advance_crc, State.setCrc_crc, hdrBytes_take_eight]
  · rw [State.storedBy_of_not_pack hpack, State.ok_crc, State.advance_crc]

/-- Settles O42: the CRC is that of the body found in BUF, HLEN being as it stands now. -/
theorem putBodycrcEmitsTheTrailingCrc : Obligations.PutBodycrcEmitsTheTrailingCrc := by
  intro s hinv hlen hcan
  have ⟨_, _, hroom⟩ := hcan
  rw [← Nat.add_assoc] at hroom
  have hexec := ((exec_putBodycrc_of_ready hcan.putReady).trans
    ((if_neg hlen).trans (if_neg (Nat.not_lt.2 hroom)))).trans (hinv.emit_eq_next hcan (by simp))
  have hstored := ((s.memWrite_changesOnly (a := s.pos.toNat + s.bodyLen) (wordBytes_length s.bodyCrc)).mono
    (List.nil_subset [.crc]) fun _ ha => ha).trans
      ((State.setCrc_changesOnly _ s.bodyCrc).mono (List.Subset.refl _) nofun)
  refine ⟨_, hexec, rfl, ?_, rfl, fun hpack => ⟨?_, ?_⟩, fun hpack => ?_,
    State.storedBy_advance_changesOnly hstored⟩
  · rw [Nat.add_assoc] at hroom ⊢
    exact State.advance_ok_pos_toNat hroom
  · rw [State.storedBy_of_pack hpack, State.ok_memRead, State.advance_memRead, State.setCrc_memRead,
      State.memRead_memWrite_same _ _ _ _ (wordBytes_length _).symm, wordBytes_eq_bigEndian4]
  · rw [State.storedBy_of_pack hpack, State.ok_crc, State.advance_crc, State.setCrc_crc]
  · rw [State.storedBy_of_not_pack hpack, State.ok_crc, State.advance_crc]

/-- Settles O43: the element is the sentinel of the parameters. -/
theorem putEndEmitsTheSentinel : Obligations.PutEndEmitsTheSentinel := by
  intro s hinv hcan
  have ⟨_, _, hroom⟩ := hcan
  have hexec := ((exec_putEnd_of_ready hcan.putReady).trans (if_neg (Nat.not_lt.2 hroom))).trans
    (hinv.emit_eq_next hcan (by simp))
  refine ⟨_, hexec, rfl, State.advance_ok_pos_toNat hroom, rfl, fun hpack => ?_,
    State.storedBy_advance_changesOnly (s.memWrite_changesOnly (sentinelBytes_length _))⟩
  rw [State.storedBy_of_pack hpack, State.ok_memRead, State.advance_memRead,
    State.memRead_memWrite_same _ _ _ _ (sentinelBytes_length _).symm, sentinelBytes_eq]

end Sys2Proof.Machine
end

section
/-! PROOFS. The statements of 42_framer_emit.md about the host's sequences. The emit sequence and the length sequence are
one list of operations with the mode as a parameter. Every operation is a link of a chain of steps that report no error;
the chains of the elements are joined as their bytes are. -/

namespace Sys2Proof.Machine

/-! ### Chains of steps -/

/-- The pending operations `ops` run one by one from `s` to `t`, and none of them reports an error. -/
inductive RunsOk : List Event → State → State → Prop where
  | nil (s : State) : RunsOk [] s s
  | cons {e : Event} {ops : List Event} {s t u : State} (hpending : s.pending = e :: t.pending)
      (hstep : step s = .next t) (hstatus : t.status = s.status ∨ t.status = 0) (hrest : RunsOk ops t u) :
      RunsOk (e :: ops) s u

namespace RunsOk

variable {ops ops' rest : List Event} {s t u : State}

theorem trans (h : RunsOk ops s t) (h' : RunsOk ops' t u) : RunsOk (ops ++ ops') s u := by
  induction h with
  | nil => exact h'
  | cons hpending hstep hstatus _ ih => exact .cons hpending hstep hstatus (ih h')

theorem pending (h : RunsOk ops s t) : s.pending = ops ++ t.pending := by
  induction h with
  | nil => rfl
  | cons hpending _ _ _ ih => rw [hpending, ih, List.cons_append]

theorem pending_eq (h : RunsOk ops s t) (hp : s.pending = ops ++ rest) : t.pending = rest :=
  List.append_cancel_left (h.pending.symm.trans hp)

theorem inv (h : RunsOk ops s t) (hs : s.Inv) : t.Inv := by
  induction h with
  | nil => exact hs
  | cons _ hstep _ _ ih => exact ih (stepKeepsTheInvariants _ _ hs hstep)

theorem status (h : RunsOk ops s t) (hs : s.status = 0) : t.status = 0 := by
  induction h with
  | nil => exact hs
  | cons _ _ hstatus _ ih => exact ih (hstatus.elim (·.trans hs) id)

theorem run_add (h : RunsOk ops s t) (k : Nat) : Sys2Proof.core.run (ops.length + k) s = Sys2Proof.core.run k t := by
  induction h with
  | nil => rw [List.length_nil, Nat.zero_add]
  | @cons e ops s t u _ hstep _ _ ih =>
    have hrun : Sys2Proof.core.run (ops.length + k + 1) s = Sys2Proof.core.run (ops.length + k) t := by
      simp only [Host.Core.run, show Sys2Proof.core.step s = .next t from hstep]
    rw [List.length_cons, Nat.add_right_comm, hrun, ih]

/-- Each state on the way, from a state with STATUS 0 on, has STATUS 0. -/
theorem exists_run (h : RunsOk ops s t) (hs : s.status = 0) :
    ∀ k ≤ ops.length, ∃ u, Sys2Proof.core.run k s = .next u ∧ u.status = 0 := by
  induction h with
  | nil => exact fun k hk => ⟨_, by rw [Nat.le_zero.1 hk]; rfl, hs⟩
  | @cons e ops s t u hpending hstep hstatus _ ih =>
    intro k hk
    cases k with
    | zero => exact ⟨s, rfl, hs⟩
    | succ k =>
      have hrun := (RunsOk.cons hpending hstep hstatus (.nil t)).run_add k
      rw [List.length_singleton, Nat.add_comm] at hrun
      rw [hrun]
      exact ih (hstatus.elim (·.trans hs) id) k (Nat.le_of_succ_le_succ hk)

end RunsOk

/-- `ops` run from `s` to `t` without an error, and change at most the registers `regs` and the bytes `stored`. -/
structure Passes (regs : List Reg) (stored : Nat → Prop) (ops : List Event) (s t : State) : Prop where
  runs : RunsOk ops s t
  regs_kept : ∀ r, r ∉ regs → t.readReg r = s.readReg r
  bytes_kept : ∀ a, ¬ stored a → t.bufByte a = s.bufByte a
  params_kept : t.params = s.params

namespace Passes

variable {regs regs' : List Reg} {stored stored' : Nat → Prop} {ops ops' rest : List Event} {s t u : State}

theorem nil (s : State) : Passes regs stored [] s s := ⟨.nil s, fun _ _ => rfl, fun _ _ => rfl, rfl⟩

theorem trans (h : Passes regs stored ops s t) (h' : Passes regs' stored' ops' t u) :
    Passes (regs ++ regs') (fun a => stored a ∨ stored' a) (ops ++ ops') s u where
  runs := h.runs.trans h'.runs
  regs_kept r hr := by
    rw [List.mem_append, not_or] at hr
    exact (h'.regs_kept r hr.2).trans (h.regs_kept r hr.1)
  bytes_kept a ha := by
    rw [not_or] at ha
    exact (h'.bytes_kept a ha.2).trans (h.bytes_kept a ha.1)
  params_kept := h'.params_kept.trans h.params_kept

theorem mono (h : Passes regs stored ops s t) (hregs : regs ⊆ regs') (hstored : ∀ a, stored a → stored' a) :
    Passes regs' stored' ops s t :=
  { h with
    regs_kept := fun r hr => h.regs_kept r fun hmem => hr (hregs hmem)
    bytes_kept := fun a ha => h.bytes_kept a fun hmem => ha (hstored a hmem) }

theorem bufBytes (h : Passes regs stored ops s t) : t.bufBytes = s.bufBytes := congrArg Params.bufBytes h.params_kept

theorem pos_eq (h : Passes regs stored ops s t) (hr : Reg.pos ∉ regs) : t.pos = s.pos :=
  BitVec.eq_of_toNat_eq (h.regs_kept .pos hr)

theorem limit_eq (h : Passes regs stored ops s t) (hr : Reg.limit ∉ regs) : t.limit = s.limit :=
  BitVec.eq_of_toNat_eq (h.regs_kept .limit hr)

theorem hlen_eq (h : Passes regs stored ops s t) (hr : Reg.hlen ∉ regs) : t.hlen = s.hlen :=
  BitVec.eq_of_toNat_eq (h.regs_kept .hlen hr)

theorem crc_eq (h : Passes regs stored ops s t) (hr : Reg.crc ∉ regs) : t.crc = s.crc :=
  BitVec.eq_of_toNat_eq (h.regs_kept .crc hr)

theorem esticky_eq (h : Passes regs stored ops s t) (hr : Reg.esticky ∉ regs) : t.esticky = s.esticky :=
  BitVec.eq_of_toNat_eq (h.regs_kept .esticky hr)

theorem frstate_eq (h : Passes regs stored ops s t) (hr : Reg.frstate ∉ regs) : t.frstate = s.frstate :=
  BitVec.eq_of_toNat_eq (h.regs_kept .frstate hr)

theorem frmode_eq (h : Passes regs stored ops s t) (hr : Reg.frmode ∉ regs) : t.frmode = s.frmode :=
  BitVec.eq_of_toNat_eq (h.regs_kept .frmode hr)

theorem memRead_kept (h : Passes regs stored ops s t) {a n : Nat} (hout : ∀ x, inSpan a n x → ¬ stored x) :
    t.memRead a n = s.memRead a n :=
  State.memRead_congr _ _ _ _ _ fun i hi => h.bytes_kept _ (hout _ ⟨by omega, by omega⟩)

/-- One operation, from what it changes in the state with the operation taken. -/
theorem of_step {e : Event} (hp : s.pending = e :: rest) (hstep : takeEvent e (s.taken rest) = .next t)
    (hstatus : t.status = s.status ∨ t.status = 0) (h : ChangesOnly regs stored (s.taken rest) t) :
    Passes regs stored [e] s t where
  runs := .cons (by rw [hp, h.pending_kept, State.taken_pending]) ((step_of_pending hp).trans hstep) hstatus (.nil t)
  regs_kept r hr := (h.regs_kept r hr).trans (by cases r <;> rfl)
  bytes_kept := h.bytes_kept
  params_kept := h.params_kept

theorem of_cmd {w : Word} {i : Instr} (hp : s.pending = .op (.cmd w) :: rest) (hw : decode w = .ok i)
    (hexec : exec i (s.taken rest) = .next t) (hstatus : t.status = 0) (h : ChangesOnly regs stored (s.taken rest) t) :
    Passes regs stored [.op (.cmd w)] s t :=
  of_step hp (by simpa only [takeEvent, perform, hostCmd, hw] using hexec) (.inr hstatus) h

end Passes

/-- The host writes a register (10_state.md R36). -/
theorem exists_passes_regWrite {n v : Nat} {r : Reg} {rest : List Event} {s : State}
    (hp : s.pending = .op (.regWrite n v) :: rest) (hr : Reg.ofNumber? n = some r) (hw : r.access = .readWrite) :
    ∃ t, Passes [r] noByte [.op (.regWrite n v)] s t ∧ t.readReg r = v % 2 ^ r.width := by
  have hchanges := State.writeReg_changesOnly (s.taken rest) r v
  have hstatus : Reg.status ∉ [r] := fun hmem => by rw [← List.mem_singleton.1 hmem] at hw; cases hw
  exact ⟨_, .of_step hp (hostRegWrite_of_number hr (by simp [hw]))
    (.inl (BitVec.eq_of_toNat_eq (hchanges.regs_kept _ hstatus))) hchanges, State.writeReg_readReg_same _ r v hw⟩

/-- The host deposits a body in BUF, byte by byte (R165). -/
theorem exists_passes_depositBody {rest : List Event} (body : List Byte) : ∀ {a : Nat} {s : State},
    s.pending = depositBody a body ++ rest → a + body.length ≤ s.bufBytes →
    ∃ t, Passes [] (inSpan a body.length) (depositBody a body) s t ∧ t.memRead a body.length = body := by
  induction body with
  | nil => exact fun _ _ => ⟨_, .nil _, rfl⟩
  | cons b body ih =>
    intro a s hp hspan
    rw [List.length_cons] at hspan
    have hput := State.putByte_changesOnly (s.taken (depositBody (a + 1) body ++ rest)) a b
    have hfirst := Passes.of_step hp (hostBufWrite_of_lt (by rw [State.taken_bufBytes]; omega)) (.inl rfl) hput
    obtain ⟨t, hrest, hbody⟩ := ih hput.pending_kept (a := a + 1)
      (by rw [State.putByte_bufBytes, State.taken_bufBytes]; omega)
    refine ⟨t, (hfirst.trans hrest).mono (List.nil_subset _) ?_, ?_⟩
    · rintro x (rfl | ⟨hle, hlt⟩)
      · exact ⟨Nat.le_refl x, by simp⟩
      · exact ⟨by omega, by rw [List.length_cons]; omega⟩
    · have hkept : t.bufByte a = b :=
        (hrest.bytes_kept a fun hin => by have := hin.1; omega).trans
          ((State.bufByte_putByte _ a a b).trans (if_pos rfl))
      rw [List.length_cons, Nat.add_comm, State.memRead_add, hbody]
      simp [State.memRead, hkept]

/-! ### The host's sequences (R165, R171) -/

/-- The host deposits a body in mode PACK only. -/
def depositIn (m : BitVec 2) (a : Nat) (body : List Byte) : List Event :=
  if m = FrMode.pack then depositBody a body else []

theorem depositIn_pack (a : Nat) (body : List Byte) : depositIn FrMode.pack a body = depositBody a body := if_pos rfl

theorem depositIn_of_ne_pack {m : BitVec 2} (h : m ≠ FrMode.pack) (a : Nat) (body : List Byte) :
    depositIn m a body = [] := if_neg h

/-- The operations for one table at `p`, none for an empty body. -/
def tableOps (m : BitVec 2) (p : Nat) (t : Block) : List Event :=
  if t.2.length = 0 then []
  else
    [.op (.regWrite 8 t.1.toNat), .op (.regWrite 9 (t.2.length / 4))] ++ [.op (.cmd 0x12)] ++ depositIn m (p + 12) t.2
      ++ [.op (.cmd 0x13)]

/-- The operations for the tables, the first at `p`. -/
def tablesOps (m : BitVec 2) (p : Nat) : List Block → List Event
  | [] => []
  | t :: rest => tableOps m p t ++ tablesOps m (p + blockLength t) rest

/-- The operations that open a stream region of `cap` bytes at `b` in mode `m`. -/
def openOps (m : BitVec 2) (b cap : Nat) : List Event :=
  [.op (.regWrite 3 b)] ++ [.op (.regWrite 4 cap)] ++ [.op (.cmd (BitVec.ofNat 32 (0x10 + 4096 * m.toNat)))]

/-- The operations for the elements of a stream, the first at `p`. -/
def elementsOps (m : BitVec 2) (p : Nat) (devid : Word) (blocks : List Block) : List Event :=
  [.op (.regWrite 7 devid.toNat)] ++ [.op (.cmd 0x11)] ++ tablesOps m (p + 4) blocks ++ [.op (.cmd 0x14)]

theorem emitBlocks_eq_tablesOps (p : Nat) (blocks : List Block) :
    emitBlocks p blocks = tablesOps FrMode.pack p blocks := by
  induction blocks generalizing p with
  | nil => rfl
  | cons t rest ih =>
    obtain ⟨blk, body⟩ := t
    simp only [emitBlocks, tablesOps, tableOps, blockLength, depositIn_pack]
    split_ifs with hempty
    · exact ih p
    · simp [ih, Nat.add_assoc]

theorem lengthBlocks_eq_tablesOps (p : Nat) (blocks : List Block) :
    lengthBlocks blocks = tablesOps FrMode.length p blocks := by
  induction blocks generalizing p with
  | nil => rfl
  | cons t rest ih =>
    obtain ⟨blk, body⟩ := t
    simp only [lengthBlocks, tablesOps, tableOps, blockLength,
      depositIn_of_ne_pack (show FrMode.length ≠ FrMode.pack by decide)]
    split_ifs with hempty
    · exact ih p
    · simp [ih (p + (12 + body.length + 4))]

theorem emitSequence_eq (b cap : Nat) (devid : Word) (blocks : List Block) :
    emitSequence b cap devid blocks = openOps FrMode.pack b cap ++ elementsOps FrMode.pack b devid blocks := by
  simp [emitSequence, openOps, elementsOps, emitBlocks_eq_tablesOps]

theorem lengthSequence_eq (b cap : Nat) (devid : Word) (blocks : List Block) :
    lengthSequence b cap devid blocks = openOps FrMode.length b cap ++ elementsOps FrMode.length b devid blocks := by
  simp [lengthSequence, openOps, elementsOps, lengthBlocks_eq_tablesOps (b + 4)]

/-! ### The elements of a stream -/

/-- A stream of mode `m` is under way, the framer in state `st`. -/
structure State.InStream (m : BitVec 2) (st : BitVec 3) (s : State) : Prop where
  inv : s.Inv
  mode : s.frmode = m
  state : s.frstate = st

/-- The registers that the operations of a stream change. -/
def streamRegs : List Reg := [.devid, .blkid, .hlen, .pos, .frstate, .status, .crc]

/-- `ops` run from `s` to `t` without an error and emit the bytes `out` at the cursor: in mode PACK they are stored, in
another mode the cursor moves past them and CRC stays. -/
structure Emits (ops : List Event) (out : List Byte) (s t : State) : Prop where
  passes : Passes streamRegs (s.emitted out.length) ops s t
  pos : t.pos.toNat = s.pos.toNat + out.length
  stored : s.frmode = FrMode.pack → t.memRead s.pos.toNat out.length = out
  crc_kept : s.frmode ≠ FrMode.pack → t.crc = s.crc

theorem State.memRead_append {t : State} {a : Nat} {xs ys : List Byte} (hx : t.memRead a xs.length = xs)
    (hy : t.memRead (a + xs.length) ys.length = ys) : t.memRead a (xs ++ ys).length = xs ++ ys := by
  rw [List.length_append, State.memRead_add, hx, hy]

section
variable {m : BitVec 2} {st : BitVec 3} {ops ops' rest : List Event} {out out' : List Byte} {s t u : State}
variable {regs : List Reg} {stored : Nat → Prop}

theorem Passes.inStream (h : Passes regs stored ops s t) (hs : s.InStream m st) (hmode : Reg.frmode ∉ regs)
    {st' : BitVec 3} (hst : t.frstate = st') : t.InStream m st' :=
  ⟨h.runs.inv hs.inv, (h.frmode_eq hmode).trans hs.mode, hst⟩

theorem Emits.nil (s : State) : Emits [] [] s s := ⟨.nil s, rfl, fun _ => rfl, fun _ => rfl⟩

theorem Emits.frmode_eq (h : Emits ops out s t) : t.frmode = s.frmode := h.passes.frmode_eq (by decide)

theorem Emits.limit_eq (h : Emits ops out s t) : t.limit = s.limit :=
  h.passes.limit_eq (by decide)

/-- The room that an emission leaves. -/
theorem Emits.room (h : Emits ops out s t) {n : Nat} (hroom : s.pos.toNat + (out.length + n) ≤ s.limit.toNat) :
    t.pos.toNat + n ≤ t.limit.toNat := by
  rwa [h.pos, h.limit_eq, Nat.add_assoc]

theorem Emits.trans (h : Emits ops out s t) (h' : Emits ops' out' t u) : Emits (ops ++ ops') (out ++ out') s u where
  passes := by
    refine (h.passes.trans h'.passes).mono (by simp) ?_
    rw [List.length_append]
    rintro a (⟨hpack, hle, hlt⟩ | ⟨hpack, hle, hlt⟩)
    · exact ⟨hpack, hle, by omega⟩
    · rw [h.pos] at hle hlt
      exact ⟨h.frmode_eq.symm.trans hpack, by omega, by omega⟩
  pos := by rw [h'.pos, h.pos, List.length_append, Nat.add_assoc]
  stored hpack := by
    refine State.memRead_append ?_ ?_
    · rw [h'.passes.memRead_kept, h.stored hpack]
      rintro a ⟨-, hlt⟩ ⟨-, hle, -⟩
      rw [h.pos] at hle
      omega
    · rw [← h.pos]
      exact h'.stored (h.frmode_eq.trans hpack)
  crc_kept hpack := (h'.crc_kept (h.frmode_eq ▸ hpack)).trans (h.crc_kept hpack)

/-- A host write to a register of the elements emits nothing. -/
theorem Passes.emits_nil {r : Reg} (h : Passes [r] noByte ops s t) (hr : r ∈ [Reg.devid, .blkid, .hlen]) :
    Emits ops [] s t := by
  have hstream : ∀ r ∈ [Reg.devid, .blkid, .hlen], [r] ⊆ streamRegs ∧ Reg.pos ∉ [r] ∧ Reg.crc ∉ [r] := by decide
  obtain ⟨hsub, hpos, hcrc⟩ := hstream r hr
  exact
    { passes := h.mono hsub nofun
      pos := h.regs_kept .pos hpos
      stored := fun _ => rfl
      crc_kept := fun _ => h.crc_eq hcrc }

/-! ### The commands on the port -/

theorem State.InStream.canEmit {n : Nat} (h : s.InStream m st) (hm : m ≠ FrMode.unpack)
    (hroom : s.pos.toNat + n ≤ s.limit.toNat) : s.canEmit st n :=
  ⟨h.mode ▸ hm, h.state, hroom⟩

theorem State.Inv.taken (h : s.Inv) (rest : List Event) : (s.taken rest).Inv := (KeepsFramer.taken s rest).inv h

/-- A command that moves the cursor past an element and stores the element, CRC being no concern of it. -/
theorem Passes.emits {n : Nat} (h : Passes [.pos, .frstate, .status] (s.emitted n) ops s t) (hlen : out.length = n)
    (hpos : t.pos.toNat = s.pos.toNat + n) (hstored : s.frmode = FrMode.pack → t.memRead s.pos.toNat n = out) :
    Emits ops out s t := by
  subst hlen
  exact
    { passes := h.mono (by decide) fun _ ha => ha
      pos := hpos
      stored := hstored
      crc_kept := fun _ => h.crc_eq (by decide) }

theorem exists_emits_putDevid (h : s.InStream m FrState.devid) (hm : m ≠ FrMode.unpack)
    (hp : s.pending = .op (.cmd 0x11) :: rest) (hroom : s.pos.toNat + 4 ≤ s.limit.toNat) :
    ∃ t, Emits [.op (.cmd 0x11)] (wordBytes s.devid) s t ∧ t.InStream m FrState.hdr := by
  obtain ⟨t, hexec, hstatus, hpos, hst, hstored, hchanges⟩ :=
    putDevidEmitsTheDeviceId (s.taken rest) (h.inv.taken rest) (h.canEmit hm hroom)
  have hpass := Passes.of_cmd hp rfl hexec hstatus hchanges
  refine ⟨t, hpass.emits (wordBytes_length _) hpos fun hpack => ?_, hpass.inStream h (by decide) hst⟩
  exact (hstored hpack).trans (wordBytes_eq_bigEndian4 _).symm

theorem exists_emits_putEnd (h : s.InStream m FrState.hdr) (hm : m ≠ FrMode.unpack)
    (hp : s.pending = .op (.cmd 0x14) :: rest) (hroom : s.pos.toNat + 12 ≤ s.limit.toNat) :
    ∃ t, Emits [.op (.cmd 0x14)] (sentinelBytes s.params) s t ∧ t.InStream m FrState.done := by
  obtain ⟨t, hexec, hstatus, hpos, hst, hstored, hchanges⟩ :=
    putEndEmitsTheSentinel (s.taken rest) (h.inv.taken rest) (h.canEmit hm hroom)
  have hpass := Passes.of_cmd hp rfl hexec hstatus hchanges
  exact ⟨t, hpass.emits (sentinelBytes_length _) hpos hstored, hpass.inStream h (by decide) hst⟩

/-- PUT_HDR zeroes the body behind the bytes it moves the cursor past. -/
theorem exists_passes_putHdr (h : s.InStream m FrState.hdr) (hm : m ≠ FrMode.unpack) (hlen : s.hlen ≠ 0)
    (hp : s.pending = .op (.cmd 0x12) :: rest) (hroom : s.pos.toNat + (12 + s.bodyLen) ≤ s.limit.toNat) :
    ∃ t, Passes [.pos, .frstate, .status, .crc] (s.emitted (12 + s.bodyLen)) [.op (.cmd 0x12)] s t ∧
      t.InStream m FrState.body ∧ t.pos.toNat = s.pos.toNat + 12 ∧
      (s.frmode = FrMode.pack → t.memRead s.pos.toNat 12 = hdrBytes s.blkid s.hlen) ∧
      (s.frmode ≠ FrMode.pack → t.crc = s.crc) := by
  obtain ⟨t, hexec, hstatus, hpos, hst, hstored, hcrc, hchanges⟩ :=
    putHdrEmitsTheHeaderAndZeroesTheBody (s.taken rest) (h.inv.taken rest) hlen (h.canEmit hm hroom)
  have hpass := Passes.of_cmd hp rfl hexec hstatus hchanges
  exact ⟨t, hpass, hpass.inStream h (by decide) hst, hpos,
    fun hpack => (hstored hpack).1.trans (hdrBytes_eq _ _).symm, hcrc⟩

theorem exists_passes_putBodycrc (h : s.InStream m FrState.body) (hm : m ≠ FrMode.unpack) (hlen : s.hlen ≠ 0)
    (hp : s.pending = .op (.cmd 0x13) :: rest) (hroom : s.pos.toNat + (s.bodyLen + 4) ≤ s.limit.toNat) :
    ∃ t, Passes [.pos, .frstate, .status, .crc]
        (fun a => s.frmode = FrMode.pack ∧ inSpan (s.pos.toNat + s.bodyLen) 4 a) [.op (.cmd 0x13)] s t ∧
      t.InStream m FrState.hdr ∧ t.pos.toNat = s.pos.toNat + s.bodyLen + 4 ∧
      (s.frmode = FrMode.pack → t.memRead (s.pos.toNat + s.bodyLen) 4 = wordBytes s.bodyCrc) ∧
      (s.frmode ≠ FrMode.pack → t.crc = s.crc) := by
  obtain ⟨t, hexec, hstatus, hpos, hst, hstored, hcrc, hchanges⟩ :=
    putBodycrcEmitsTheTrailingCrc (s.taken rest) (h.inv.taken rest) hlen (h.canEmit hm hroom)
  have hpass := Passes.of_cmd hp rfl hexec hstatus hchanges
  exact ⟨t, hpass, hpass.inStream h (by decide) hst, hpos,
    fun hpack => (hstored hpack).1.trans (wordBytes_eq_bigEndian4 _).symm, hcrc⟩

/-- The body as the host deposits it at the cursor; in another mode than PACK nothing happens. -/
theorem exists_passes_depositIn {body : List Byte} (h : s.InStream m FrState.body) (hm : m ≠ FrMode.unpack)
    (hp : s.pending = depositIn m s.pos.toNat body ++ rest) (hroom : s.pos.toNat + body.length ≤ s.limit.toNat) :
    ∃ t, Passes [] (s.emitted body.length) (depositIn m s.pos.toNat body) s t ∧
      (s.frmode = FrMode.pack → t.memRead s.pos.toNat body.length = body) := by
  by_cases hpack : m = FrMode.pack
  · subst hpack
    have hspan := h.inv.element_in_buf (by rw [h.mode]; decide) (by simp [State.streamOpen, h.state]) hroom
    rw [depositIn_pack] at hp ⊢
    obtain ⟨t, hpass, hbody⟩ := exists_passes_depositBody body hp hspan
    exact ⟨t, hpass.mono (List.Subset.refl _) fun _ ha => ⟨h.mode, ha⟩, fun _ => hbody⟩
  · rw [depositIn_of_ne_pack hpack]
    exact ⟨s, .nil s, fun hmode => absurd (h.mode.symm.trans hmode) hpack⟩

/-! ### A table of a stream -/

/-- The body and its CRC: the host deposits the one, PUT_BODYCRC stores the other (R163). -/
theorem exists_emits_body {body : List Byte} (h : s.InStream m FrState.body) (hm : m ≠ FrMode.unpack)
    (hlen : s.hlen ≠ 0) (hbody : body.length = s.bodyLen) (hp : s.pending = depositIn m s.pos.toNat body ++ .op (.cmd 0x13) :: rest)
    (hroom : s.pos.toNat + (body.length + 4) ≤ s.limit.toNat) :
    ∃ t, Emits (depositIn m s.pos.toNat body ++ [.op (.cmd 0x13)]) (body ++ wordBytes (crcOf body)) s t ∧
      t.InStream m FrState.hdr := by
  obtain ⟨u, hdeposit, hread⟩ := exists_passes_depositIn h hm hp (by omega)
  have hpos : u.pos = s.pos := hdeposit.pos_eq (by decide)
  have hlimit : u.limit = s.limit := hdeposit.limit_eq (by decide)
  have hhlen : u.hlen = s.hlen := hdeposit.hlen_eq (by decide)
  have hcrc : u.crc = s.crc := hdeposit.crc_eq (by decide)
  have hmode := hdeposit.frmode_eq (by decide)
  have hbodyLen : u.bodyLen = body.length := by rw [hbody, State.bodyLen, State.bodyLen, hhlen]
  obtain ⟨t, htrailer, ht, htpos, htread, htcrc⟩ := exists_passes_putBodycrc
    (hdeposit.inStream h (by decide) ((hdeposit.frstate_eq (by decide)).trans h.state)) hm (hhlen ▸ hlen)
    (hdeposit.runs.pending_eq hp) (by rw [hpos, hlimit, hbodyLen]; exact hroom)
  rw [hmode, hpos, hbodyLen] at htrailer htread
  rw [hpos, hbodyLen] at htpos
  refine ⟨t, ⟨(hdeposit.trans htrailer).mono (by decide) ?_, ?_, fun hpack => ?_, fun hpack => ?_⟩, ht⟩
  · rw [List.length_append, wordBytes_length]
    rintro a (⟨hpack, hle, hlt⟩ | ⟨hpack, hle, hlt⟩)
    · exact ⟨hpack, hle, by omega⟩
    · exact ⟨hpack, by omega, by omega⟩
  · rw [htpos, List.length_append, wordBytes_length, Nat.add_assoc]
  · refine State.memRead_append ?_ ?_
    · rw [htrailer.memRead_kept, hread hpack]
      rintro a ⟨-, hlt⟩ ⟨-, hle, -⟩
      omega
    · rw [wordBytes_length, htread hpack, State.bodyCrc, hpos, hbodyLen, hread hpack]
  · rw [htcrc (hmode ▸ hpack), hcrc]

/-- A table with a body, BLKID and HLEN holding its header's fields (R158). -/
theorem exists_emits_element {body : List Byte} (h : s.InStream m FrState.hdr) (hm : m ≠ FrMode.unpack)
    (hlen : s.hlen ≠ 0) (hbody : body.length = s.bodyLen)
    (hp : s.pending = .op (.cmd 0x12) :: (depositIn m (s.pos.toNat + 12) body ++ .op (.cmd 0x13) :: rest))
    (hroom : s.pos.toNat + (12 + (body.length + 4)) ≤ s.limit.toNat) :
    ∃ t, Emits (.op (.cmd 0x12) :: (depositIn m (s.pos.toNat + 12) body ++ [.op (.cmd 0x13)]))
        (hdrBytes s.blkid s.hlen ++ (body ++ wordBytes (crcOf body))) s t ∧ t.InStream m FrState.hdr := by
  obtain ⟨u, hheader, hu, hpos, hread, hcrc⟩ := exists_passes_putHdr h hm hlen hp (by omega)
  have hlimit : u.limit = s.limit := hheader.limit_eq (by decide)
  have hhlen : u.hlen = s.hlen := hheader.hlen_eq (by decide)
  have hmode := hheader.frmode_eq (by decide)
  have hpending := hheader.runs.pending_eq (ops := [_]) hp
  rw [← hpos] at hpending ⊢
  obtain ⟨t, hrest, ht⟩ := exists_emits_body hu hm (hhlen ▸ hlen) (by rw [hbody, State.bodyLen, State.bodyLen, hhlen])
    hpending (by rw [hlimit, hpos]; omega)
  have hlength : (hdrBytes s.blkid s.hlen ++ (body ++ wordBytes (crcOf body))).length = 12 + (body.length + 4) := by
    simp
  refine ⟨t, ⟨(hheader.trans hrest.passes).mono (by decide) ?_, ?_, fun hpack => ?_, fun hpack => ?_⟩, ht⟩
  · rw [hlength, ← hbody]
    rintro a (⟨hpack, hle, hlt⟩ | ⟨hpack, hle, hlt⟩)
    · exact ⟨hpack, hle, by omega⟩
    · rw [hpos] at hle hlt
      rw [List.length_append, wordBytes_length] at hlt
      exact ⟨hmode ▸ hpack, by omega, by omega⟩
  · rw [hrest.pos, hpos, hlength, List.length_append, wordBytes_length, Nat.add_assoc]
  · refine State.memRead_append ?_ ?_
    · rw [hdrBytes_length, hrest.passes.memRead_kept, hread hpack]
      rintro a ⟨-, hlt⟩ ⟨-, hle, -⟩
      omega
    · rw [hdrBytes_length, ← hpos, hrest.stored (hmode.trans hpack)]
  · rw [hrest.crc_kept (hmode ▸ hpack), hcrc hpack]

theorem exists_emits_regWrite {n v : Nat} {r : Reg} (h : s.InStream m st)
    (hp : s.pending = .op (.regWrite n v) :: rest) (hr : Reg.ofNumber? n = some r)
    (hmem : r ∈ [Reg.devid, .blkid, .hlen]) :
    ∃ t, Passes [r] noByte [.op (.regWrite n v)] s t ∧ Emits [.op (.regWrite n v)] [] s t ∧ t.InStream m st ∧
      t.readReg r = v % 2 ^ r.width := by
  have hfields : ∀ r ∈ [Reg.devid, .blkid, .hlen], r.access = .readWrite ∧ Reg.frmode ∉ [r] ∧ Reg.frstate ∉ [r] := by
    decide
  obtain ⟨hwrite, hmode, hst⟩ := hfields r hmem
  obtain ⟨t, hpass, hval⟩ := exists_passes_regWrite hp hr hwrite
  exact ⟨t, hpass, hpass.emits_nil hmem, hpass.inStream h hmode ((hpass.frstate_eq hst).trans h.state), hval⟩

/-- The host writes BLKID and HLEN of the next header (R165). -/
theorem exists_emits_fields {blk : Byte} {n : Nat} (h : s.InStream m st)
    (hp : s.pending = .op (.regWrite 8 blk.toNat) :: .op (.regWrite 9 n) :: rest) :
    ∃ t, Emits [.op (.regWrite 8 blk.toNat), .op (.regWrite 9 n)] [] s t ∧ t.InStream m st ∧
      t.blkid = blk ∧ t.hlen = BitVec.ofNat 24 n := by
  obtain ⟨u, hblkPass, hblkEmit, hu, hblk⟩ := exists_emits_regWrite h hp rfl (by decide)
  obtain ⟨t, hlenPass, hlenEmit, ht, hlen⟩ :=
    exists_emits_regWrite hu (hblkPass.runs.pending_eq (ops := [_]) hp) rfl (by decide)
  refine ⟨t, hblkEmit.trans hlenEmit, ht, BitVec.eq_of_toNat_eq ?_, BitVec.eq_of_toNat_eq hlen⟩
  calc t.blkid.toNat = u.blkid.toNat := hlenPass.regs_kept .blkid (by decide)
    _ = blk.toNat % 2 ^ 8 := hblk
    _ = blk.toNat := Nat.mod_eq_of_lt blk.isLt

/-- A table: nothing for an empty body, else its fields and its element (R158, R165). -/
theorem exists_emits_table {b : Block} (h : s.InStream m FrState.hdr) (hm : m ≠ FrMode.unpack)
    (hframable : b.2.length % 4 = 0 ∧ b.2.length < 2 ^ 26) (hp : s.pending = tableOps m s.pos.toNat b ++ rest)
    (hroom : s.pos.toNat + (blockBytes b).length ≤ s.limit.toNat) :
    ∃ t, Emits (tableOps m s.pos.toNat b) (blockBytes b) s t ∧ t.InStream m FrState.hdr := by
  by_cases hempty : b.2.length = 0
  · rw [tableOps, blockBytes, if_pos hempty, if_pos hempty]
    exact ⟨s, .nil s, h⟩
  · obtain ⟨hwords, hsize⟩ := hframable
    rw [blockBytes_length, blockLength, if_neg hempty] at hroom
    rw [tableOps, if_neg hempty] at hp ⊢
    rw [blockBytes, if_neg hempty]
    simp only [List.cons_append, List.nil_append, List.append_assoc] at hp ⊢
    obtain ⟨u, hfields, hu, hblk, hhlen⟩ := exists_emits_fields h hp
    have hlen : u.hlen.toNat = b.2.length / 4 := by
      rw [hhlen, BitVec.toNat_ofNat, Nat.mod_eq_of_lt (by omega)]
    have hpos : u.pos.toNat = s.pos.toNat := hfields.pos
    have hpending := hfields.passes.runs.pending_eq (ops := [_, _]) hp
    rw [← hpos] at hpending ⊢
    obtain ⟨t, helement, ht⟩ := exists_emits_element hu hm
      (fun hzero => by rw [hzero, show (0 : BitVec 24).toNat = 0 from rfl] at hlen; omega)
      (by rw [State.bodyLen, hlen]; omega)
      hpending (hfields.room (by rw [List.length_nil]; omega))
    rw [hblk, hhlen] at helement
    exact ⟨t, hfields.trans helement, ht⟩

/-- The tables, one after the other. -/
theorem exists_emits_tables (hm : m ≠ FrMode.unpack) (blocks : List Block) : ∀ {s : State}, s.InStream m FrState.hdr →
    blocksFramable blocks → s.pending = tablesOps m s.pos.toNat blocks ++ rest →
    s.pos.toNat + (blocks.flatMap blockBytes).length ≤ s.limit.toNat →
    ∃ t, Emits (tablesOps m s.pos.toNat blocks) (blocks.flatMap blockBytes) s t ∧ t.InStream m FrState.hdr := by
  induction blocks with
  | nil => exact fun h _ _ _ => ⟨_, .nil _, h⟩
  | cons b blocks ih =>
    intro s h hframable hp hroom
    obtain ⟨hb, hblocks⟩ := List.forall_mem_cons.1 hframable
    rw [List.flatMap_cons, List.length_append] at hroom
    rw [tablesOps, List.append_assoc] at hp
    obtain ⟨u, htable, hu⟩ := exists_emits_table h hm hb hp (by omega)
    have hpending := htable.passes.runs.pending_eq hp
    rw [tablesOps, List.flatMap_cons]
    rw [← blockBytes_length, ← htable.pos] at hpending ⊢
    obtain ⟨t, htables, ht⟩ := ih hu hblocks hpending (htable.room hroom)
    exact ⟨t, htable.trans htables, ht⟩

/-- The elements of a stream: the device identifier, the tables, the sentinel (R158). -/
theorem exists_emits_elements {devid : Word} {blocks : List Block} (h : s.InStream m FrState.devid)
    (hm : m ≠ FrMode.unpack) (hframable : blocksFramable blocks) (hp : s.pending = elementsOps m s.pos.toNat devid blocks)
    (hroom : s.pos.toNat + getLength blocks ≤ s.limit.toNat) :
    ∃ t, Emits (elementsOps m s.pos.toNat devid blocks) (frame s.params devid blocks) s t ∧
      t.InStream m FrState.done ∧ t.pending = [] := by
  have hlength : (blocks.flatMap blockBytes).length + 16 = getLength blocks := by
    rw [← frameHasTheComputedLength s.params devid blocks]
    simp only [frame, List.length_append, wordBytes_length, sentinelBytes_length]
    omega
  simp only [elementsOps, List.append_assoc] at hp
  obtain ⟨u, hpass, hwrite, hu, hdevid⟩ := exists_emits_regWrite h hp rfl (by decide)
  have hdevid : u.devid = devid := BitVec.eq_of_toNat_eq (hdevid.trans (Nat.mod_eq_of_lt devid.isLt))
  obtain ⟨v, hid, hv⟩ := exists_emits_putDevid hu hm (hpass.runs.pending_eq (ops := [_]) hp)
    (hwrite.room (by rw [List.length_nil]; omega))
  rw [hdevid] at hid
  have hstart := hwrite.trans hid
  have hpos : v.pos.toNat = s.pos.toNat + 4 := by simpa using hstart.pos
  have hpending := hstart.passes.runs.pending_eq (ops := [_, _]) hp
  rw [← hpos] at hpending
  obtain ⟨w, htables, hw⟩ := exists_emits_tables hm blocks hv hframable hpending
    (hstart.room (by simp only [List.length_append, List.length_nil, wordBytes_length]; omega))
  have hbody := hstart.trans htables
  obtain ⟨t, hend, ht⟩ := exists_emits_putEnd hw hm (htables.passes.runs.pending_eq hpending)
    (hbody.room (by simp only [List.length_append, List.length_nil, wordBytes_length]; omega))
  rw [hbody.passes.params_kept] at hend
  have hall := hbody.trans hend
  rw [hpos] at hall
  exact ⟨t, hall, ht, hend.passes.runs.pending_eq (htables.passes.runs.pending_eq hpending)⟩

end

/-! ### The stream opened -/

/-- The registers that the operations before the first element change. -/
def openRegs : List Reg := [.base, .len, .pos, .limit, .frmode, .seen, .ecnt, .frstate, .status]

/-- Room for a stream of `n` bytes at `b`: in mode PACK in the region, which lies in BUF; in mode LENGTH below the
largest address (R160). -/
def State.hasRoom (s : State) (m : BitVec 2) (b cap n : Nat) : Prop :=
  (m = FrMode.pack ∧ b + cap ≤ s.bufBytes ∧ n ≤ cap) ∨ (m = FrMode.length ∧ b + n ≤ 2 ^ 32 - 1)

section
variable {m : BitVec 2} {b cap n : Nat} {rest : List Event} {s : State}

theorem State.hasRoom.base_lt (h : s.hasRoom m b cap n) : b < 2 ^ 32 := by
  have hsize := s.bufBytes_lt
  rcases h with ⟨-, hspan, -⟩ | ⟨-, htop⟩
  · omega
  · omega

theorem State.hasRoom.mode (h : s.hasRoom m b cap n) : m.toNat ≤ 2 ∧ m ≠ FrMode.unpack := by
  rcases h with ⟨rfl, -, -⟩ | ⟨rfl, -⟩ <;> decide

/-- FR_BEGIN where LEN holds `cap` cut to its width: LIMIT leaves the room. -/
theorem exists_exec_frBegin (hroom : s.hasRoom m b cap n) (hbase : s.base.toNat = b)
    (hlen : s.len.toNat = cap % 2 ^ 32) :
    ∃ t, exec (.frBegin m) s = .next t ∧ t.status = 0 ∧ t.pos = s.base ∧ t.frmode = m ∧ t.frstate = FrState.devid ∧
      b + n ≤ t.limit.toNat ∧
      ChangesOnly [.pos, .limit, .frmode, .seen, .ecnt, .frstate, .status] noByte s t := by
  have hsize := s.bufBytes_lt
  rcases hroom with ⟨rfl, hspan, hcap⟩ | ⟨rfl, htop⟩
  · rw [Nat.mod_eq_of_lt (by omega)] at hlen
    refine ⟨_, exec_frBegin_of_span (.inl rfl) (by omega), rfl, rfl, rfl, rfl, ?_,
      State.beginStream_ok_changesOnly s _ _⟩
    rw [State.beginStream_ok_limit_toNat (by omega)]
    omega
  · refine ⟨_, exec_frBegin_length, rfl, rfl, rfl, rfl, ?_, State.beginStream_ok_changesOnly s _ _⟩
    rw [State.beginStream_ok_limit_toNat (by decide)]
    exact htop

/-- BASE and LEN written and FR_BEGIN issued (R165). -/
theorem exists_passes_open (hinv : s.Inv) (hroom : s.hasRoom m b cap n) (hp : s.pending = openOps m b cap ++ rest) :
    ∃ t, Passes openRegs noByte (openOps m b cap) s t ∧
      t.InStream m FrState.devid ∧ t.status = 0 ∧ t.base.toNat = b ∧ t.pos.toNat = b ∧ b + n ≤ t.limit.toNat := by
  obtain ⟨u, hbasePass, hbase⟩ := exists_passes_regWrite (r := .base) hp rfl rfl
  obtain ⟨v, hlenPass, hlen⟩ := exists_passes_regWrite (r := .len) (hbasePass.runs.pending_eq (ops := [_]) hp) rfl rfl
  have hwritten := hbasePass.trans hlenPass
  have hvbase : v.base.toNat = b :=
    ((hlenPass.regs_kept .base (by decide)).trans hbase).trans (Nat.mod_eq_of_lt hroom.base_lt)
  have hvroom : v.hasRoom m b cap n := by rwa [State.hasRoom, hwritten.bufBytes]
  have hpending := hwritten.runs.pending_eq (ops := [_, _]) hp
  obtain ⟨t, hexec, hstatus, hpos, hmode, hst, hlimit, hchanges⟩ :=
    exists_exec_frBegin (s := v.taken rest) hvroom hvbase hlen
  have hbegin := Passes.of_cmd hpending (decode_frBegin m hroom.mode.1) hexec hstatus hchanges
  have hall := hwritten.trans hbegin
  refine ⟨t, hall.mono (by decide) (by simp [noByte]), ⟨hall.runs.inv hinv, hmode, hst⟩, hstatus, ?_, ?_, hlimit⟩
  · exact (hbegin.regs_kept .base (by decide)).trans hvbase
  · rw [hpos]
    exact hvbase

/-- The whole of a sequence, in mode PACK or LENGTH: the stream opened, then its elements. -/
theorem exists_emits_frame {devid : Word} {blocks : List Block} (hinv : s.Inv)
    (hp : s.pending = openOps m b cap ++ elementsOps m b devid blocks) (hframable : blocksFramable blocks)
    (hroom : s.hasRoom m b cap (getLength blocks)) :
    ∃ u t, Passes openRegs noByte (openOps m b cap) s u ∧
      u.InStream m FrState.devid ∧ u.status = 0 ∧ u.base.toNat = b ∧ u.pos.toNat = b ∧
      Emits (elementsOps m b devid blocks) (frame s.params devid blocks) u t ∧ t.InStream m FrState.done ∧
      t.pending = [] := by
  obtain ⟨u, hopen, hu, hstatus, hbase, hpos, hlimit⟩ := exists_passes_open hinv hroom hp
  have hpending := hopen.runs.pending_eq hp
  rw [← hpos] at hpending hlimit
  obtain ⟨t, helements, ht, hdone⟩ := exists_emits_elements hu hroom.mode.2 hframable hpending hlimit
  rw [hpos, hopen.params_kept] at helements
  exact ⟨u, t, hopen, hu, hstatus, hbase, hpos, helements, ht, hdone⟩

end

theorem run_append {ops ops' : List Event} {s t u : State} (h : RunsOk ops s t) (h' : RunsOk ops' t u) :
    Sys2Proof.core.run (ops ++ ops').length s = .next u :=
  (h.trans h').run_add 0

/-- Settles O53, in mode PACK: what the elements store is `Frame`. -/
theorem emitSequenceWritesTheFrame : Obligations.EmitSequenceWritesTheFrame := by
  intro s b cap devid blocks hinv hp hframable hcap hspan
  rw [emitSequence_eq] at hp
  obtain ⟨u, t, hopen, hu, hstatus, hbase, hpos, hemit, ht, hdone⟩ :=
    exists_emits_frame hinv hp hframable (.inl ⟨rfl, hspan, hcap⟩)
  have hlength := frameHasTheComputedLength s.params devid blocks
  rw [hp]
  refine ⟨fun k hk hle => ?_, t, run_append hopen.runs hemit.passes.runs, hdone, ?_, ?_, ht.state,
    hemit.passes.runs.status hstatus, ?_, fun a ha => ?_⟩
  · rw [List.length_append] at hle
    obtain ⟨v, hrun, hv⟩ :=
      hemit.passes.runs.exists_run hstatus (k - 3) (Nat.sub_le_of_le_add (hle.trans_eq (Nat.add_comm _ _)))
    refine ⟨v, ?_, hv⟩
    rw [← Nat.add_sub_cancel' hk]
    exact (hopen.runs.run_add (k - 3)).trans hrun
  · rw [← hlength, ← hpos]
    exact hemit.stored hu.mode
  · rw [hemit.pos, hpos, hlength]
  · exact (hemit.passes.esticky_eq (by decide)).trans (hopen.esticky_eq (by decide))
  · rw [← hlength, ← hpos] at ha
    exact (hemit.passes.bytes_kept a fun hin => ha hin.2).trans (hopen.bytes_kept a id)

/-- Settles O54, in mode LENGTH: the cursor moves as far as in mode PACK and nothing is stored. -/
theorem lengthSequenceComputesTheLength : Obligations.LengthSequenceComputesTheLength := by
  intro s b cap devid blocks hinv hp hframable htop
  rw [lengthSequence_eq] at hp
  obtain ⟨u, t, hopen, hu, hstatus, hbase, hpos, hemit, ht, hdone⟩ :=
    exists_emits_frame hinv hp hframable (.inr ⟨rfl, htop⟩)
  have hpack : u.frmode ≠ FrMode.pack := by rw [hu.mode]; decide
  have htbase : t.base.toNat = b := (hemit.passes.regs_kept .base (by decide)).trans hbase
  rw [hp]
  refine ⟨t, run_append hopen.runs hemit.passes.runs, hdone, hemit.passes.runs.status hstatus, ?_, ht.state, ?_, htbase,
    ?_, fun a => ?_⟩
  · exact (hemit.passes.esticky_eq (by decide)).trans (hopen.esticky_eq (by decide))
  · rw [hemit.pos, hpos, htbase, frameHasTheComputedLength]
  · exact (hemit.crc_kept hpack).trans (hopen.crc_eq (by decide))
  · exact (hemit.passes.bytes_kept a fun hin => hpack hin.1).trans (hopen.bytes_kept a id)

end Sys2Proof.Machine
end

section
/-! PROOFS. The statements of 43_framer_parse.md about the commands. Each test of a GET command is one lemma: with the tests
before it passed and the stream region in BUF, it says what the command answers. -/

namespace Sys2Proof.Machine

/-! ### Big-endian numbers (00_scope.md R10) -/

theorem beNat_lt (l : List Byte) : beNat l < 2 ^ (8 * l.length) := by
  refine Nat.lt_pow_two_of_testBit _ fun i hi => ?_
  rw [beNat_testBit, decide_eq_false (by omega), Bool.false_and]

/-! ### The fields of a header (R190, 42_framer_emit.md R155) -/

section
variable {h : List Byte}

theorem exists_eq_of_length_twelve (hlen : h.length = 12) :
    ∃ a b c d e f g i j k l m, h = [a, b, c, d, e, f, g, i, j, k, l, m] := by
  match h, hlen with
  | [a, b, c, d, e, f, g, i, j, k, l, m], _ => exact ⟨a, b, c, d, e, f, g, i, j, k, l, m, rfl⟩

theorem unpack_header_blk (hlen : h.length = 12) : unpack h 31 24 lswOnly = (h.getD 0 0).toNat := by
  obtain ⟨a, b, c, d, e, f, g, i, j, k, l, m, rfl⟩ := exists_eq_of_length_twelve hlen
  have hboxes : boxes 31 24 = [3] := by decide
  simp [unpack, unpackFrom, hboxes, unpackByte, physAddr, lswOnly, boxTop, boxBottom, valueBottom, bitsOf, reflect]
  omega

theorem unpack_header_len (hlen : h.length = 12) : unpack h 55 32 lswOnly = beNat ((h.drop 5).take 3) := by
  obtain ⟨a, b, c, d, e, f, g, i, j, k, l, m, rfl⟩ := exists_eq_of_length_twelve hlen
  have hboxes : boxes 55 32 = [6, 5, 4] := by decide
  simp [unpack, unpackFrom, hboxes, unpackByte, physAddr, lswOnly, boxTop, boxBottom, valueBottom, bitsOf, reflect, beNat]
  omega

theorem unpack_header_crc (hlen : h.length = 12) : unpack h 95 64 lswOnly = beNat (h.drop 8) := by
  obtain ⟨a, b, c, d, e, f, g, i, j, k, l, m, rfl⟩ := exists_eq_of_length_twelve hlen
  have hboxes : boxes 95 64 = [11, 10, 9, 8] := by decide
  simp [unpack, unpackFrom, hboxes, unpackByte, physAddr, lswOnly, boxTop, boxBottom, valueBottom, bitsOf, reflect, beNat]
  omega

end

section
variable {s : State}

theorem State.hdrAtPos_length (s : State) : s.hdrAtPos.length = 12 := s.memRead_length _ _

/-- The fields GET_HDR reads are those of the header's layout. -/
theorem State.readHeader_hdrAtPos (s : State) : s.readHeader s.hdrAtPos = s.withHdr := by
  have hlen := s.hdrAtPos_length
  rw [State.readHeader, unpack_header_blk hlen, unpack_header_len hlen, unpack_header_crc hlen, BitVec.ofNat_toNat,
    BitVec.setWidth_eq]
  rfl

theorem State.hdrLen_lt (s : State) : s.hdrLen < 2 ^ 24 := by
  refine (beNat_lt _).trans_le (Nat.pow_le_pow_right (by decide) ?_)
  rw [List.length_take]
  omega

theorem State.withHdr_hlen_toNat (s : State) : s.withHdr.hlen.toNat = s.hdrLen := by
  rw [State.withHdr, BitVec.toNat_ofNat, Nat.mod_eq_of_lt s.hdrLen_lt]

theorem State.withHdr_hlen_eq_zero_iff : s.withHdr.hlen = 0 ↔ s.hdrLen = 0 := by
  rw [← State.withHdr_hlen_toNat, ← BitVec.toNat_inj]
  rfl

end

/-! ### The sequence test and the region (R186, R187) -/

section
variable {s : State} {st : BitVec 3} {i : Instr} {n n' : Nat}

theorem State.getReady_eq_false_iff : s.getReady st = false ↔ s.frmode ≠ FrMode.unpack ∨ s.frstate ≠ st := by
  rw [← Bool.not_eq_true, State.getReady_iff, not_and_or]

/-- The first test, of the sequence, that all three commands make. -/
theorem exec_get_of_badSequence
    (hi : (i, st) ∈ [(Instr.getDevid, FrState.devid), (.getHdr, FrState.hdr), (.getBody, FrState.body)])
    (h : s.frmode ≠ FrMode.unpack ∨ s.frstate ≠ st) : exec i s = .next (reported s 0x0A) := by
  have hready : (!s.getReady st) = true := by rw [State.getReady_eq_false_iff.2 h, Bool.not_false]
  simp only [List.mem_cons, Prod.mk.injEq, List.not_mem_nil, or_false] at hi
  rcases hi with ⟨rfl, rfl⟩ | ⟨rfl, rfl⟩ | ⟨rfl, rfl⟩ <;> exact if_pos hready

theorem State.canParse.not_not_getReady (h : s.canParse st n) : ¬ (!s.getReady st) = true := by
  simp [(s.getReady_iff st).2 ⟨h.1, h.2.1⟩]

theorem State.canParse.mono (h : s.canParse st n) (hle : n' ≤ n) : s.canParse st n' :=
  ⟨h.1, h.2.1, (Nat.add_le_add_left hle _).trans h.2.2⟩

/-- The region of a stream that is parsed lies in BUF (R187, 10_state.md R43). -/
theorem State.Inv.region_in_buf (h : s.Inv) (hcan : s.canParse st n)
    (hst : st ∈ [FrState.devid, FrState.hdr, FrState.body]) : s.limit.toNat ≤ s.bufBytes := by
  obtain ⟨hmode, rfl, -⟩ := hcan
  exact h.limit_in_buf (by rw [hmode]; decide) (State.streamOpen.ne_idle hst)

theorem State.canParse.within_eq {r : Result} (h : s.canParse st n) (hbuf : s.limit.toNat ≤ s.bufBytes) :
    s.within s.pos.toNat n r = r :=
  s.within_of_le _ _ r (h.2.2.trans hbuf)

end

/-- What a failing command answers, by the code of its kind (60_exceptions.md R221, R224). -/
theorem next_failedWith {i : Instr} {s u : State} {k : ErrorKind} {c : Nat} (hk : k.code = c)
    (h : exec i s = .next (u.fail k)) : exec i s = .next (failedWith u c) := by
  rw [h, State.fail_eq_failedWith, hk]

/-! ### GET_DEVID (R188) -/

/-- The word at POS, big-endian. -/
def State.wordAtPos (s : State) : Word := BitVec.ofNat 32 (beNat (s.memRead s.pos.toNat 4))

section
variable {s : State}

theorem exec_getDevid_of_short (hcan : s.canParse FrState.devid 0) (hshort : s.limit.toNat < s.pos.toNat + 4) :
    exec .getDevid s = .next (s.fail .unexpectedEndOfBuffer) :=
  (if_neg hcan.not_not_getReady).trans (if_pos hshort)

/-- With its 4 bytes in the stream: the one test that is left. -/
theorem exec_getDevid_of_room (hcan : s.canParse FrState.devid 4) (hbuf : s.limit.toNat ≤ s.bufBytes) :
    exec .getDevid s =
      if s.wordAtPos ∉ s.params.deviceIds then .next ((s.setDevid s.wordAtPos).fail .invalidDeviceId)
      else .next ((s.setDevid s.wordAtPos).advance (s.pos.toNat + 4) FrState.hdr).ok := by
  simp only [exec, execGetDevid]
  rw [if_neg hcan.not_not_getReady, if_neg (Nat.not_lt.2 hcan.2.2), hcan.within_eq hbuf,
    wordOf_eq_beNat _ (s.memRead_length _ _)]
  exact if_congr Iff.rfl rfl rfl

theorem exec_getDevid_of_unknown (hcan : s.canParse FrState.devid 4) (hbuf : s.limit.toNat ≤ s.bufBytes)
    (hid : s.wordAtPos ∉ s.params.deviceIds) :
    exec .getDevid s = .next ((s.setDevid s.wordAtPos).fail .invalidDeviceId) :=
  (exec_getDevid_of_room hcan hbuf).trans (if_pos hid)

theorem exec_getDevid_of_known (hcan : s.canParse FrState.devid 4) (hbuf : s.limit.toNat ≤ s.bufBytes)
    (hid : s.wordAtPos ∈ s.params.deviceIds) :
    exec .getDevid s = .next ((s.setDevid s.wordAtPos).advance (s.pos.toNat + 4) FrState.hdr).ok :=
  (exec_getDevid_of_room hcan hbuf).trans (if_neg (not_not_intro hid))

end

/-! ### GET_HDR (R190) -/

/-- `s` with the header at POS read and its CRC computed. -/
def State.withHdrCrc (s : State) : State := s.withHdr.setCrc s.hdrOwnCrc

/-- `s` with the table header at POS accepted. -/
def State.pastHdr (s : State) : State :=
  ((s.withHdrCrc.setSeen (seenWith s.seen s.hdrBlk)).advance (s.pos.toNat + 12) FrState.body).ok

@[simp] theorem State.withHdr_pos (s : State) : s.withHdr.pos = s.pos := (rfl)
@[simp] theorem State.withHdrCrc_pos (s : State) : s.withHdrCrc.pos = s.pos := (rfl)
@[simp] theorem State.pastHdr_params (s : State) : s.pastHdr.params = s.params := (rfl)
@[simp] theorem State.pastHdr_devid (s : State) : s.pastHdr.devid = s.devid := (rfl)
@[simp] theorem State.pastHdr_blkid (s : State) : s.pastHdr.blkid = s.hdrBlk := (rfl)

section
variable {s : State}

theorem State.withHdrCrc_hlen_toNat (s : State) : s.withHdrCrc.hlen.toNat = s.hdrLen := s.withHdr_hlen_toNat

theorem State.pastHdr_bodyLen (s : State) : s.pastHdr.bodyLen = s.hdrLen * 4 :=
  congrArg (· * 4) s.withHdr_hlen_toNat

theorem exec_getHdr_of_short (hcan : s.canParse FrState.hdr 0) (hshort : s.limit.toNat < s.pos.toNat + 12) :
    exec .getHdr s = .next (s.fail .unexpectedEndOfBuffer) :=
  (if_neg hcan.not_not_getReady).trans (if_pos hshort)

/-- With its 12 bytes in the stream: the length tells a sentinel from a table header. -/
theorem exec_getHdr_of_room (hcan : s.canParse FrState.hdr 12) (hbuf : s.limit.toNat ≤ s.bufBytes) :
    exec .getHdr s =
      if s.withHdr.hlen = 0 then .next s.withHdr.acceptSentinel else .next s.withHdrCrc.acceptHeader := by
  rw [State.withHdrCrc, ← State.readHeader_hdrAtPos]
  exact ((if_neg hcan.not_not_getReady).trans (if_neg (Nat.not_lt.2 hcan.2.2))).trans (hcan.within_eq hbuf)

theorem exec_getHdr_of_sentinel (hcan : s.canParse FrState.hdr 12) (hbuf : s.limit.toNat ≤ s.bufBytes)
    (hzero : s.hdrLen = 0) : exec .getHdr s = .next s.withHdr.acceptSentinel :=
  (exec_getHdr_of_room hcan hbuf).trans (if_pos (State.withHdr_hlen_eq_zero_iff.2 hzero))

theorem exec_getHdr_of_extraBytes (hcan : s.canParse FrState.hdr 12) (hbuf : s.limit.toNat ≤ s.bufBytes)
    (hzero : s.hdrLen = 0) (hend : s.pos.toNat + 12 ≠ s.limit.toNat) :
    exec .getHdr s = .next (s.withHdr.fail .extraBytesAtEndOfBuffer) :=
  (exec_getHdr_of_sentinel hcan hbuf hzero).trans (congrArg _ (if_pos hend))

theorem exec_getHdr_of_end (hcan : s.canParse FrState.hdr 12) (hbuf : s.limit.toNat ≤ s.bufBytes)
    (hzero : s.hdrLen = 0) (hend : s.pos.toNat + 12 = s.limit.toNat) :
    exec .getHdr s = .next (s.withHdr.advance (s.pos.toNat + 12) FrState.done).ok :=
  (exec_getHdr_of_sentinel hcan hbuf hzero).trans (congrArg _ (if_neg (not_not_intro hend)))

theorem exec_getHdr_of_header (hcan : s.canParse FrState.hdr 12) (hbuf : s.limit.toNat ≤ s.bufBytes)
    (hlen : s.hdrLen ≠ 0) : exec .getHdr s = .next s.withHdrCrc.acceptHeader :=
  (exec_getHdr_of_room hcan hbuf).trans (if_neg (State.withHdr_hlen_eq_zero_iff.not.2 hlen))

/-- The tests of a table header in their order (R190 tests 3 to 6), on the fields of the header at POS. -/
theorem State.withHdrCrc_acceptHeader (s : State) :
    s.withHdrCrc.acceptHeader =
      if s.hdrOwnCrc ≠ s.hdrRdcrc then s.withHdrCrc.fail .invalidTableHeaderCrc
      else if s.limit.toNat < s.pos.toNat + 12 + s.hdrLen * 4 then s.withHdrCrc.fail .unexpectedEndOfBuffer
      else if (entrySize s.params s.devid s.hdrBlk).isNone then s.withHdrCrc.fail .tableHeaderUnknown
      else if s.seen.getLsbD s.hdrBlk.toNat then s.withHdrCrc.fail .tableHeaderDuplicate
      else s.pastHdr := by
  rw [State.acceptHeader, State.withHdrCrc_hlen_toNat]
  rfl

section
variable (hcan : s.canParse FrState.hdr 12) (hbuf : s.limit.toNat ≤ s.bufBytes) (hlen : s.hdrLen ≠ 0)
include hcan hbuf hlen

theorem exec_getHdr_of_badCrc (hcrc : s.hdrOwnCrc ≠ s.hdrRdcrc) :
    exec .getHdr s = .next (s.withHdrCrc.fail .invalidTableHeaderCrc) := by
  rw [exec_getHdr_of_header hcan hbuf hlen, State.withHdrCrc_acceptHeader, if_pos hcrc]

theorem exec_getHdr_of_noBody (hcrc : s.hdrOwnCrc = s.hdrRdcrc)
    (hroom : s.limit.toNat < s.pos.toNat + 12 + s.hdrLen * 4) :
    exec .getHdr s = .next (s.withHdrCrc.fail .unexpectedEndOfBuffer) := by
  rw [exec_getHdr_of_header hcan hbuf hlen, State.withHdrCrc_acceptHeader, if_neg (not_not_intro hcrc), if_pos hroom]

variable (hcrc : s.hdrOwnCrc = s.hdrRdcrc) (hroom : s.pos.toNat + 12 + s.hdrLen * 4 ≤ s.limit.toNat)
include hcrc hroom

theorem exec_getHdr_of_unknown (hes : entrySize s.params s.devid s.hdrBlk = none) :
    exec .getHdr s = .next (s.withHdrCrc.fail .tableHeaderUnknown) := by
  rw [exec_getHdr_of_header hcan hbuf hlen, State.withHdrCrc_acceptHeader, if_neg (not_not_intro hcrc),
    if_neg (Nat.not_lt.2 hroom), if_pos (by rw [hes]; rfl)]

variable (hes : entrySize s.params s.devid s.hdrBlk ≠ none)
include hes

/-- The last test, of the blocks seen. -/
theorem exec_getHdr_of_defined :
    exec .getHdr s = .next
      (if s.seen.getLsbD s.hdrBlk.toNat then s.withHdrCrc.fail .tableHeaderDuplicate else s.pastHdr) := by
  rw [exec_getHdr_of_header hcan hbuf hlen, State.withHdrCrc_acceptHeader, if_neg (not_not_intro hcrc),
    if_neg (Nat.not_lt.2 hroom), if_neg (by simpa using hes)]

theorem exec_getHdr_of_duplicate (hseen : s.seen.getLsbD s.hdrBlk.toNat = true) :
    exec .getHdr s = .next (s.withHdrCrc.fail .tableHeaderDuplicate) := by
  rw [exec_getHdr_of_defined hcan hbuf hlen hcrc hroom hes, if_pos hseen]

theorem exec_getHdr_of_accepted (hseen : s.seen.getLsbD s.hdrBlk.toNat = false) :
    exec .getHdr s = .next s.pastHdr := by
  rw [exec_getHdr_of_defined hcan hbuf hlen hcrc hroom hes, if_neg (by simp [hseen])]

end

end

/-! ### GET_BODY (R192) -/

section
variable {s : State} {es : Nat}

theorem exec_getBody_of_undefined (hcan : s.canParse FrState.body 0)
    (hes : entrySize s.params s.devid s.blkid = none) :
    exec .getBody s = .next (s.fail .incorrectTableLength) := by
  refine (if_neg hcan.not_not_getReady).trans ?_
  rw [hes]

/-- With ENTRY_SIZE defined: the tests in their order. -/
theorem exec_getBody_of_defined (hcan : s.canParse FrState.body 0)
    (hes : entrySize s.params s.devid s.blkid = some es) :
    exec .getBody s =
      if s.bodyLen % es ≠ 0 then .next (s.fail .incorrectTableLength)
      else if s.limit.toNat < s.pos.toNat + s.bodyLen + 4 then .next (s.fail .unexpectedEndOfBuffer)
      else s.within s.pos.toNat (s.bodyLen + 4) (.next (s.acceptBody s.bodyLen es)) := by
  refine (if_neg hcan.not_not_getReady).trans ?_
  rw [hes]
  rfl

theorem exec_getBody_of_remainder (hcan : s.canParse FrState.body 0)
    (hes : entrySize s.params s.devid s.blkid = some es) (hrem : s.bodyLen % es ≠ 0) :
    exec .getBody s = .next (s.fail .incorrectTableLength) := by
  rw [exec_getBody_of_defined hcan hes, if_pos hrem]

theorem exec_getBody_of_short (hcan : s.canParse FrState.body 0)
    (hes : entrySize s.params s.devid s.blkid = some es) (hrem : s.bodyLen % es = 0)
    (hshort : s.limit.toNat < s.pos.toNat + s.bodyLen + 4) :
    exec .getBody s = .next (s.fail .unexpectedEndOfBuffer) := by
  rw [exec_getBody_of_defined hcan hes, if_neg (not_not_intro hrem), if_pos hshort]

/-- `s` with CRC and RDCRC of the body at POS. -/
def State.withBodyCrcs (s : State) : State := s.setCrcs s.bodyCrc s.trailingCrc

/-- `s` with the body at POS accepted, its entries being of `es` bytes. -/
def State.pastBody (s : State) (es : Nat) : State :=
  ((s.withBodyCrcs.countEntries (s.bodyLen / es)).advance (s.pos.toNat + (s.bodyLen + 4)) FrState.hdr).ok

@[simp] theorem State.withBodyCrcs_pos (s : State) : s.withBodyCrcs.pos = s.pos := (rfl)
@[simp] theorem State.pastBody_params (s : State) (es : Nat) : (s.pastBody es).params = s.params := (rfl)
@[simp] theorem State.pastBody_devid (s : State) (es : Nat) : (s.pastBody es).devid = s.devid := (rfl)
@[simp] theorem State.pastBody_blkid (s : State) (es : Nat) : (s.pastBody es).blkid = s.blkid := (rfl)
@[simp] theorem State.pastBody_status (s : State) (es : Nat) : (s.pastBody es).status = statusOk := (rfl)
@[simp] theorem State.pastBody_bodyLen (s : State) (es : Nat) : (s.pastBody es).bodyLen = s.bodyLen := (rfl)

variable (hcan : s.canParse FrState.body (s.bodyLen + 4)) (hbuf : s.limit.toNat ≤ s.bufBytes)
  (hes : entrySize s.params s.devid s.blkid = some es) (hrem : s.bodyLen % es = 0)
include hcan hbuf hes hrem

/-- The last test, of the trailing CRC. -/
theorem exec_getBody_of_room :
    exec .getBody s = .next
      (if s.bodyCrc ≠ s.trailingCrc then s.withBodyCrcs.fail .dataCrcInvalid else s.pastBody es) := by
  have hroom : ¬ s.limit.toNat < s.pos.toNat + s.bodyLen + 4 := by have := hcan.2.2; omega
  rw [exec_getBody_of_defined (hcan.mono (Nat.zero_le _)) hes, if_neg (not_not_intro hrem), if_neg hroom,
    hcan.within_eq hbuf, State.pastBody, State.withBodyCrcs, State.trailingCrc, ← wordOf_eq_beNat _ (s.memRead_length _ _)]
  rfl

theorem exec_getBody_of_badCrc (hcrc : s.bodyCrc ≠ s.trailingCrc) :
    exec .getBody s = .next (s.withBodyCrcs.fail .dataCrcInvalid) := by
  rw [exec_getBody_of_room hcan hbuf hes hrem, if_pos hcrc]

theorem exec_getBody_of_accepted (hcrc : s.bodyCrc = s.trailingCrc) :
    exec .getBody s = .next (s.pastBody es) := by
  rw [exec_getBody_of_room hcan hbuf hes hrem, if_neg (not_not_intro hcrc)]

end

/-! ### What the GET commands leave unchanged -/

section
variable {regs : List Reg} {s t : State}

/-- An update of registers: BUF and the model's own fields stay. -/
theorem ChangesOnly.of_registers (hregs : ∀ r, r ∉ regs → t.readReg r = s.readReg r) (hbuf : t.buf = s.buf)
    (hparams : t.params = s.params) (hresets : t.resets = s.resets) (hpending : t.pending = s.pending)
    (hreply : t.reply = s.reply) : ChangesOnly regs noByte s t where
  regs_kept := hregs
  bytes_kept a _ := by
    have hfree : t.unlisted = s.unlisted := funext fun a => congrArg (Config.resetByte · a) hresets
    rw [State.bufByte, State.bufByte, hbuf, hfree]
  params_kept := hparams
  resets_kept := hresets
  pending_kept := hpending
  reply_kept := hreply

theorem State.setDevid_changesOnly (s : State) (d : Word) : ChangesOnly [.devid] noByte s (s.setDevid d) := by
  refine .of_registers (fun r hr => ?_) rfl rfl rfl rfl rfl
  cases r with
  | devid => exact absurd (by simp) hr
  | _ => rfl

theorem State.setSeen_changesOnly (s : State) (v : BitVec 256) : ChangesOnly [.seen] noByte s (s.setSeen v) := by
  refine .of_registers (fun r hr => ?_) rfl rfl rfl rfl rfl
  cases r with
  | seen => exact absurd (by simp) hr
  | _ => rfl

theorem State.readHeader_changesOnly (s : State) (h : List Byte) :
    ChangesOnly [.blkid, .hlen, .rdcrc] noByte s (s.readHeader h) := by
  refine .of_registers (fun r hr => ?_) rfl rfl rfl rfl rfl
  cases r with
  | blkid | hlen | rdcrc => exact absurd (by simp) hr
  | _ => rfl

theorem State.setCrcs_changesOnly (s : State) (c d : Word) : ChangesOnly [.crc, .rdcrc] noByte s (s.setCrcs c d) := by
  refine .of_registers (fun r hr => ?_) rfl rfl rfl rfl rfl
  cases r with
  | crc | rdcrc => exact absurd (by simp) hr
  | _ => rfl

theorem State.countEntries_changesOnly (s : State) (n : Nat) : ChangesOnly [.ecnt] noByte s (s.countEntries n) := by
  refine .of_registers (fun r hr => ?_) rfl rfl rfl rfl rfl
  cases r with
  | ecnt => exact absurd (by simp) hr
  | _ => rfl

theorem State.fail_changesOnly (s : State) (k : ErrorKind) :
    ChangesOnly [.status, .esticky, .frstate] noByte s (s.fail k) := by
  refine .of_registers (fun r hr => ?_) rfl rfl rfl rfl rfl
  cases r with
  | status | esticky | frstate => exact absurd (by simp) hr
  | _ => rfl

theorem State.withHdr_changesOnly (s : State) : ChangesOnly [.blkid, .hlen, .rdcrc] noByte s s.withHdr := by
  rw [← State.readHeader_hdrAtPos]
  exact s.readHeader_changesOnly _

/-- One update after another changes what either changes. -/
theorem ChangesOnly.comp {regs' : List Reg} {u : State} (h : ChangesOnly regs noByte s t)
    (h' : ChangesOnly regs' noByte t u) : ChangesOnly (regs ++ regs') noByte s u :=
  (h.mono (List.subset_append_left _ _) fun _ ha => ha).trans (h'.mono (List.subset_append_right _ _) fun _ ha => ha)

end

theorem State.pastHdr_changesOnly (s : State) :
    ChangesOnly [.blkid, .hlen, .rdcrc, .crc, .seen, .pos, .frstate, .status] noByte s s.pastHdr := by
  have hread := s.withHdr_changesOnly.comp (State.setCrc_changesOnly _ s.hdrOwnCrc)
  have hseen := State.setSeen_changesOnly s.withHdrCrc (seenWith s.seen s.hdrBlk)
  exact (hread.comp hseen).comp (State.advance_ok_changesOnly _ _ _)

theorem State.pastBody_changesOnly (s : State) (es : Nat) :
    ChangesOnly [.crc, .rdcrc, .ecnt, .pos, .frstate, .status] noByte s (s.pastBody es) := by
  have hread := s.setCrcs_changesOnly s.bodyCrc s.trailingCrc
  have hcount := s.withBodyCrcs.countEntries_changesOnly (s.bodyLen / es)
  exact (hread.comp hcount).comp (State.advance_ok_changesOnly _ _ _)

/-- SEEN after a block is accepted (R194). -/
theorem seenWith_getLsbD (seen : BitVec 256) (blk b : Byte) :
    (seenWith seen blk).getLsbD b.toNat = (seen.getLsbD b.toNat || b == blk) := by
  have hb : b.toNat < 256 := b.isLt
  rw [seenWith, BitVec.getLsbD_or, BitVec.getLsbD_shiftLeft, BitVec.getLsbD_one]
  congr 1
  by_cases h : b = blk
  · simp [h, blk.isLt]
  · have hne : b.toNat ≠ blk.toNat := BitVec.toNat_inj.not.2 h
    rw [beq_eq_false_iff_ne.2 h]
    have hout : b.toNat < blk.toNat ∨ b.toNat - blk.toNat ≠ 0 := by omega
    rcases hout with hlt | hsub
    · simp [hlt]
    · simp [hsub]

/-! ### The GET commands that complete and their errors -/

/-- Settles O45: the word is in DEVICE_IDS, so the one test left passes. -/
theorem getDevidReadsTheDeviceId : Obligations.GetDevidReadsTheDeviceId := by
  intro s hinv hcan hid
  have hexec := exec_getDevid_of_known hcan (hinv.region_in_buf hcan (by simp)) hid
  refine ⟨_, hexec, rfl, State.advance_ok_pos_toNat hcan.2.2, rfl, ?_,
    ((s.setDevid_changesOnly _).comp (State.advance_ok_changesOnly _ _ _)).mono (by decide) nofun⟩
  have hlt := beNat_lt (s.memRead s.pos.toNat 4)
  rw [State.memRead_length] at hlt
  exact (BitVec.toNat_ofNat _ 32).trans (Nat.mod_eq_of_lt hlt)

/-- Settles O46: the tests of a table header pass one by one. -/
theorem getHdrAcceptsATableHeader : Obligations.GetHdrAcceptsATableHeader := by
  intro s hinv hcan hlen hcrc hroom hes hseen
  have hexec := exec_getHdr_of_accepted hcan (hinv.region_in_buf hcan (by simp)) hlen hcrc hroom hes hseen
  exact ⟨_, hexec, rfl, State.advance_ok_pos_toNat hcan.2.2, rfl, rfl, s.withHdrCrc_hlen_toNat, rfl, rfl,
    seenWith_getLsbD _ _, s.pastHdr_changesOnly⟩

/-- Settles O47: the sentinel ends at LIMIT. -/
theorem getHdrAcceptsTheSentinel : Obligations.GetHdrAcceptsTheSentinel := by
  intro s hinv hcan hzero hend
  have hexec := exec_getHdr_of_end hcan (hinv.region_in_buf hcan (by simp)) hzero hend
  refine ⟨_, hexec, rfl, ?_, rfl, rfl, State.withHdr_hlen_eq_zero_iff.2 hzero, rfl,
    (s.withHdr_changesOnly.comp (State.advance_ok_changesOnly _ _ _)).mono (by decide) nofun⟩
  exact BitVec.eq_of_toNat_eq ((State.advance_ok_pos_toNat hcan.2.2).trans hend)

/-- Settles O48: the tests in their order, each command's first failing one reported. -/
theorem getDevidAndGetHdrErrors : Obligations.GetDevidAndGetHdrErrors := by
  intro s hinv
  have hbuf : ∀ {n}, s.canParse FrState.hdr n → s.limit.toNat ≤ s.bufBytes :=
    fun hcan => hinv.region_in_buf hcan (by simp)
  have hhdr : ∀ {n}, s.canParse FrState.hdr (12 + n) → s.canParse FrState.hdr 12 :=
    fun hcan => hcan.mono (Nat.le_add_right _ _)
  have hroom : ∀ {n}, s.canParse FrState.hdr (12 + n) → s.pos.toNat + 12 + n ≤ s.limit.toNat :=
    fun hcan => (Nat.add_assoc _ _ _).trans_le hcan.2.2
  exact ⟨exec_get_of_badSequence (by simp),
    fun hcan hshort => next_failedWith rfl (exec_getDevid_of_short hcan hshort),
    fun hcan hid =>
      next_failedWith rfl (exec_getDevid_of_unknown hcan (hinv.region_in_buf hcan (by simp)) hid),
    exec_get_of_badSequence (by simp),
    fun hcan hshort => next_failedWith rfl (exec_getHdr_of_short hcan hshort),
    fun hcan hzero hend => next_failedWith rfl (exec_getHdr_of_extraBytes hcan (hbuf hcan) hzero hend),
    fun hcan hlen hcrc => next_failedWith rfl (exec_getHdr_of_badCrc hcan (hbuf hcan) hlen hcrc),
    fun hcan hlen hcrc hnoBody => next_failedWith rfl (exec_getHdr_of_noBody hcan (hbuf hcan) hlen hcrc hnoBody),
    fun hcan hlen hcrc hes =>
      next_failedWith rfl (exec_getHdr_of_unknown (hhdr hcan) (hbuf hcan) hlen hcrc (hroom hcan) hes),
    fun hcan hlen hcrc hes hseen =>
      next_failedWith rfl (exec_getHdr_of_duplicate (hhdr hcan) (hbuf hcan) hlen hcrc (hroom hcan) hes hseen)⟩

/-- Settles O49: the CRC of the body is the one behind it. -/
theorem getBodyAcceptsABody : Obligations.GetBodyAcceptsABody := by
  intro s es hinv hcan hes hrem hcrc
  have hexec := exec_getBody_of_accepted hcan (hinv.region_in_buf hcan (by simp)) hes hrem hcrc
  rw [Nat.add_assoc]
  refine ⟨_, hexec, rfl, State.advance_ok_pos_toNat hcan.2.2, rfl, rfl, rfl, fun hfits => ?_, s.pastBody_changesOnly es⟩
  rw [State.pastBody, State.ok_ecnt, State.advance_ecnt, State.countEntries_ecnt, entryCount_of_lt _ _ hfits,
    BitVec.toNat_ofNat, Nat.mod_eq_of_lt hfits]

/-- Settles O50: the tests in their order, the first failing one reported. -/
theorem getBodyErrors : Obligations.GetBodyErrors := by
  intro s hinv
  refine ⟨exec_get_of_badSequence (by simp), fun hcan hsize => ?_, fun es hes hrem =>
    ⟨fun hcan hshort => next_failedWith rfl (exec_getBody_of_short hcan hes hrem hshort), fun hcan hcrc =>
      next_failedWith rfl (exec_getBody_of_badCrc hcan (hinv.region_in_buf hcan (by simp)) hes hrem hcrc)⟩⟩
  rcases hsize with hes | ⟨es, hes, hrem⟩
  · exact next_failedWith rfl (exec_getBody_of_undefined hcan hes)
  · exact next_failedWith rfl (exec_getBody_of_remainder hcan hes hrem)

/-! ### What a command reports (60_exceptions.md R224) and what it does to SEEN (R194) -/

/-- The registers a GET command may have written before it fails (60_exceptions.md R227). -/
def readRegs : List Reg := [.devid, .blkid, .hlen, .rdcrc, .crc]

/-- The ends of a command by what they report, which `CommandEffect` leaves open: a caller error; a framing error of a GET
command; OK with SEEN kept; OK of an accepting GET_HDR; OK of FR_BEGIN. -/
inductive CommandEnd : Instr → State → State → Prop where
  | raised {i : Instr} {s : State} {k : ErrorKind} (hk : k.code < 0x10) : CommandEnd i s (s.raise k)
  | failed {i : Instr} {s u : State} {k : ErrorKind} (hi : i ∈ [Instr.getDevid, .getHdr, .getBody])
      (hmode : s.frmode = FrMode.unpack) (hu : ChangesOnly readRegs noByte s u) : CommandEnd i s (u.fail k)
  | completed {i : Instr} {s u : State} (hu : u.seen = s.seen) : CommandEnd i s u.ok
  | accepted {s u : State} {p : Nat} (hu : u.seen = s.seen) :
      CommandEnd .getHdr s ((u.setSeen (seenWith s.seen u.blkid)).advance p FrState.body).ok
  | began {m : BitVec 2} {s : State} {lim : Nat} : CommandEnd (.frBegin m) s (s.beginStream m lim).ok

section
variable {s t : State}

/-- PACK and UNPACK: a caller error, or OK. -/
theorem CommandEnd.of_fieldError {i : Instr} {op : Direction} {q : Quirks} {u : State}
    (h : (fieldError op q s = none ∧ t = u.ok) ∨ ∃ k, fieldError op q s = some k ∧ t = s.raise k)
    (hu : u.seen = s.seen) : CommandEnd i s t := by
  rcases h with ⟨-, rfl⟩ | ⟨k, hk, rfl⟩
  · exact .completed hu
  · rcases fieldError_kind op q s k hk with rfl | rfl | rfl | rfl <;> exact .raised (by decide)

theorem execCrc32_end (h : execCrc32 s = .next t) : CommandEnd .crc32 s t := by
  rcases execCrc32_eq_next s t h with rfl | rfl | ⟨-, -, rfl⟩
  · exact .raised (by decide)
  · exact .raised (by decide)
  · exact .completed rfl

theorem execFrBegin_end {m : BitVec 2} (h : execFrBegin m s = .next t) : CommandEnd (.frBegin m) s t := by
  rcases execFrBegin_eq_next m s t h with ⟨-, -, rfl⟩ | ⟨-, rfl⟩ | rfl | rfl
  · exact .began
  · exact .began
  · exact .raised (by decide)
  · exact .raised (by decide)

theorem execPutDevid_end (h : execPutDevid s = .next t) : CommandEnd .putDevid s t := by
  rcases execPutDevid_eq_next s t h with rfl | rfl | ⟨-, ⟨-, -, rfl⟩ | ⟨-, rfl⟩⟩
  · exact .raised (by decide)
  · exact .raised (by decide)
  · exact .completed rfl
  · exact .completed rfl

theorem execPutHdr_end (h : execPutHdr s = .next t) : CommandEnd .putHdr s t := by
  rcases execPutHdr_eq_next s t h with rfl | rfl | rfl | ⟨-, -, ⟨-, -, rfl⟩ | ⟨-, rfl⟩⟩
  · exact .raised (by decide)
  · exact .raised (by decide)
  · exact .raised (by decide)
  · exact .completed (by simp)
  · exact .completed rfl

theorem execPutBodycrc_end (h : execPutBodycrc s = .next t) : CommandEnd .putBodycrc s t := by
  rcases execPutBodycrc_eq_next s t h with rfl | rfl | rfl | ⟨-, -, ⟨-, -, rfl⟩ | ⟨-, rfl⟩⟩
  · exact .raised (by decide)
  · exact .raised (by decide)
  · exact .raised (by decide)
  · exact .completed (by simp)
  · exact .completed rfl

theorem execPutEnd_end (h : execPutEnd s = .next t) : CommandEnd .putEnd s t := by
  rcases execPutEnd_eq_next s t h with rfl | rfl | ⟨-, ⟨-, -, rfl⟩ | ⟨-, rfl⟩⟩
  · exact .raised (by decide)
  · exact .raised (by decide)
  · exact .completed rfl
  · exact .completed rfl

theorem execGetDevid_end (h : execGetDevid s = .next t) : CommandEnd .getDevid s t := by
  rcases execGetDevid_eq_next s t h with rfl | ⟨hmode, -, rfl⟩ | ⟨⟨hmode, -, -⟩, ⟨rfl, -⟩ | ⟨rfl, -⟩⟩
  · exact .raised (by decide)
  · exact .failed (by simp) hmode (.refl s)
  · exact .failed (by simp) hmode ((s.setDevid_changesOnly _).mono (by decide) nofun)
  · exact .completed (by simp)

theorem execGetHdr_end (h : execGetHdr s = .next t) : CommandEnd .getHdr s t := by
  rcases execGetHdr_eq_next s t h with rfl | ⟨hmode, -, rfl⟩ | ⟨⟨hmode, -, -⟩, ⟨-, rfl⟩ | ⟨-, rfl⟩⟩
  · exact .raised (by decide)
  · exact .failed (by simp) hmode (.refl s)
  · rcases State.acceptSentinel_cases (s.readHeader s.hdrAtPos) with ⟨-, hend⟩ | ⟨-, hend⟩ <;> rw [hend]
    · exact .failed (by simp) hmode ((s.readHeader_changesOnly _).mono (by decide) nofun)
    · exact .completed rfl
  · have hread := (s.readHeader_changesOnly s.hdrAtPos).comp
      (State.setCrc_changesOnly _ (crcOf (s.hdrAtPos.take 8)))
    rcases State.acceptHeader_cases ((s.readHeader s.hdrAtPos).setCrc (crcOf (s.hdrAtPos.take 8))) with
      ⟨k, -, hend⟩ | ⟨-, -, -, -, hend⟩ <;> rw [hend]
    · exact .failed (by simp) hmode (hread.mono (by decide) nofun)
    · exact .accepted (u := (s.readHeader s.hdrAtPos).setCrc (crcOf (s.hdrAtPos.take 8))) (by simp)

theorem execGetBody_end (h : execGetBody s = .next t) : CommandEnd .getBody s t := by
  rcases execGetBody_eq_next s t h with rfl | ⟨hmode, -, rfl | rfl⟩ | ⟨⟨hmode, -, -⟩, es, -, -, rfl⟩
  · exact .raised (by decide)
  · exact .failed (by simp) hmode (.refl s)
  · exact .failed (by simp) hmode (.refl s)
  · rcases State.acceptBody_cases s s.bodyLen es with ⟨-, hend⟩ | ⟨-, hend⟩ <;> rw [hend]
    · exact .failed (by simp) hmode ((s.setCrcs_changesOnly _ _).mono (by decide) nofun)
    · exact .completed (by simp)

/-- How a command ends, whichever it is. -/
theorem exec_end {i : Instr} (h : exec i s = .next t) : CommandEnd i s t := by
  cases i with
  | nop =>
    obtain rfl : s.ok = t := Host.Outcome.next.inj h
    exact .completed rfl
  | pack q => exact .of_fieldError (execPack_eq_next q s t h) rfl
  | unpack q => exact .of_fieldError (execUnpack_eq_next q s t h) rfl
  | crc32 => exact execCrc32_end h
  | frBegin m => exact execFrBegin_end h
  | putDevid => exact execPutDevid_end h
  | putHdr => exact execPutHdr_end h
  | putBodycrc => exact execPutBodycrc_end h
  | putEnd => exact execPutEnd_end h
  | getDevid => exact execGetDevid_end h
  | getHdr => exact execGetHdr_end h
  | getBody => exact execGetBody_end h

theorem statusOf_toNat (k : ErrorKind) : (statusOf k).toNat = k.code := by
  cases k <;> rfl

end

/-- Settles O19: of the ends of a command only a failed GET command reports a code from 0x10 on. -/
theorem framingErrorsFailTheParse : Obligations.FramingErrorsFailTheParse := by
  intro i s t hexec hstatus
  cases exec_end hexec with
  | raised hk =>
    rw [State.raise_status, statusOf_toNat] at hstatus
    omega
  | @failed _ _ u k hi hmode hu =>
    have hsticky : u.esticky = s.esticky := BitVec.eq_of_toNat_eq (hu.regs_kept .esticky (by decide))
    refine ⟨hi, hmode, rfl, ?_, (hu.comp (u.fail_changesOnly k)).mono (by decide) nofun⟩
    rw [State.fail_esticky, State.fail_status, statusOf_toNat, stickySet, hsticky]
  | completed => exact absurd hstatus (by rw [State.ok_status]; decide)
  | accepted => exact absurd hstatus (by rw [State.ok_status]; decide)
  | began => exact absurd hstatus (by rw [State.ok_status]; decide)

/-- Settles O21: S_FAILED is no state of an open stream, and those are the states a PUT or a GET command needs. -/
theorem onlyFrBeginLeavesFailed : Obligations.OnlyFrBeginLeavesFailed := by
  intro i s hfailed
  have hopen : ¬ s.streamOpen := by simp [State.streamOpen, hfailed]
  have hne : ∀ st ∈ [FrState.devid, FrState.hdr, FrState.body], s.frstate ≠ st := by
    rintro st hst rfl
    exact hopen hst
  have hrow : ∀ i ∈ framingCommands, ∃ st ∈ [FrState.devid, FrState.hdr, FrState.body],
      (i, st) ∈ [(Instr.putDevid, FrState.devid), (.putHdr, FrState.hdr), (.putBodycrc, FrState.body),
        (.putEnd, FrState.hdr)] ∨
      (i, st) ∈ [(Instr.getDevid, FrState.devid), (.getHdr, FrState.hdr), (.getBody, FrState.body)] := by
    decide
  refine ⟨fun hi => ?_, fun t hexec hbegin => ?_⟩
  · obtain ⟨st, hst, hput | hget⟩ := hrow i hi
    · exact exec_put_of_badSequence hput (.inr (hne st hst))
    · exact exec_get_of_badSequence hget (.inr (hne st hst))
  · cases exec_effect hexec with
    | raised => exact hfailed
    | failed => rfl
    | completed hu => exact hu.frstate.trans hfailed
    | advanced _ hopen' => exact absurd hopen' hopen
    | began => exact absurd rfl (hbegin _)

/-- Settles O23, by the ends of a command. -/
theorem seenChangesOnlyByAcceptedHeaders : Obligations.SeenChangesOnlyByAcceptedHeaders := by
  intro i s t hexec
  cases exec_end hexec with
  | raised => exact .inl rfl
  | failed hi hmode hu => exact .inl (BitVec.eq_of_toNat_eq (hu.regs_kept .seen (by decide)))
  | completed hu => exact .inl hu
  | accepted => exact .inr (.inl ⟨rfl, rfl, rfl, seenWith_getLsbD _ _⟩)
  | began => exact .inr (.inr ⟨⟨_, rfl⟩, rfl, rfl⟩)

end Sys2Proof.Machine
end

section
/-! PROOFS. The statements of 43_framer_parse.md about streams. A table of a stream is what stands at its offset: a header
and a body, each before its CRC. `Deframe` passes over the tables of `Frame` one by one, and an inverted bit is a bit of a
header or of a body or of the CRC after it. -/

namespace Sys2Proof.Machine

/-! ### Spans of a byte string -/

section
variable {s x y z : List Byte} {p k m n i b : Nat}

theorem slice_slice (h : k + m ≤ n) : slice (slice s p n) k m = slice s (p + k) m := by
  rw [slice, slice, slice, List.drop_take, List.take_take, List.drop_drop, Nat.min_eq_left (by omega)]

theorem slice_zero_length (s : List Byte) : slice s 0 s.length = s := by
  rw [slice, List.drop_zero, List.take_length]

/-- A span inside the middle part of a string. -/
theorem slice_append (h : k + m ≤ y.length) : slice (x ++ (y ++ z)) (x.length + k) m = slice y k m := by
  rw [slice, List.drop_length_add_append, List.drop_append_of_le_length (by omega),
    List.take_append_of_le_length (by rw [List.length_drop]; omega), slice]

theorem slice_getD (h : k < n) : (slice s p n).getD k 0 = s.getD (p + k) 0 := by
  simp [slice, List.getD_eq_getElem?_getD, h]

theorem flipBit_length : (flipBit s i b).length = s.length := List.length_set

theorem flipBit_append : flipBit (x ++ y) (x.length + i) b = x ++ flipBit y i b := by
  simp [flipBit, List.getElem?_append_right]

/-- An inverted bit of a span is a bit of the span inverted. -/
theorem slice_flipBit (h : i < n) : slice (flipBit s (p + i) b) p n = flipBit (slice s p n) i b := by
  rw [flipBit, flipBit, slice_getD h, slice, List.drop_set, if_neg (by omega), List.take_set, slice,
    Nat.add_sub_cancel_left]

theorem slice_flipBit_of_not_mem (h : i < p ∨ p + n ≤ i) : slice (flipBit s i b) p n = slice s p n := by
  refine List.ext_getElem? fun k => ?_
  simp only [slice, flipBit, List.getElem?_take, List.getElem?_drop, List.getElem?_set]
  split_ifs <;> first | rfl | omega

theorem getD_flipBit_of_lt (h : p < i) : (flipBit s i b).getD p 0 = s.getD p 0 := by
  simp [flipBit, show i ≠ p by omega]

theorem flipBit_ne (hi : i < s.length) (hb : b < 8) : flipBit s i b ≠ s := by
  intro heq
  have hbyte := congrArg (fun t => (t.getD i 0).getLsbD b) heq
  simp [flipBit, hi, hb] at hbyte

end

/-! ### The words of a stream (41_crc32.md R142, R145) -/

@[simp] theorem wordOf_wordBytes (w : Word) : wordOf (wordBytes w) = w := by
  have hw : (w.setWidth 64).toNat = w.toNat := BitVec.toNat_setWidth_of_le (by decide)
  have hlegal : packLegal (w.setWidth 64) 31 0 (List.replicate 4 (0 : Byte)).length lswOnly :=
    ⟨by decide, by decide, fun _ => hw ▸ w.isLt, fun _ => rfl, by decide⟩
  have hread := unpack_pack hlegal
  rw [hw] at hread
  rw [wordOf, wordBytes, hread, BitVec.ofNat_toNat, BitVec.setWidth_eq]

theorem wordOf_inj {s t : List Byte} (hs : s.length = 4) (ht : t.length = 4) (h : wordOf s = wordOf t) : s = t := by
  refine List.ext_getElem (hs.trans ht.symm) fun k hk hk' => ?_
  have hplace : 3 - (3 - k) = k := by omega
  have hbyte : s.getD k 0 = t.getD k 0 := by
    rw [← hplace, ← wordOf_extractLsb' hs (by omega), ← wordOf_extractLsb' ht (by omega), h]
  rwa [List.getD_eq_getElem _ _ hk, List.getD_eq_getElem _ _ hk'] at hbyte

/-- The word behind the `n` bytes at `p` is their CRC: so it is of every header and of every body of a stream. -/
abbrev CrcAgreesAt (s : List Byte) (p n : Nat) : Prop := crcOf (slice s p n) = wordOf (slice s (p + n) 4)

/-- One inverted bit, of the bytes or of the CRC, and the two no longer agree (41_crc32.md R147). -/
theorem not_crcAgreesAt_flipBit {s : List Byte} {p n i b : Nat} (h : CrcAgreesAt s p n) (hwords : n % 4 = 0)
    (hfits : p + n + 4 ≤ s.length) (hi : i < n + 4) (hb : b < 8) : ¬ CrcAgreesAt (flipBit s (p + i) b) p n := by
  have hlen : (slice s p n).length = n := by rw [slice_length]; omega
  have hword : (slice s (p + n) 4).length = 4 := by rw [slice_length]; omega
  intro hflip
  rw [CrcAgreesAt] at h hflip
  rcases Nat.lt_or_ge i n with hin | hout
  · rw [slice_flipBit hin, slice_flipBit_of_not_mem (.inl (by omega)), ← h] at hflip
    exact crcDetectsEveryFlippedBit _ i b (by rwa [hlen]) (by rwa [hlen]) hb hflip
  · obtain ⟨j, rfl⟩ := Nat.exists_eq_add_of_le hout
    rw [← Nat.add_assoc, slice_flipBit (by omega), slice_flipBit_of_not_mem (.inr (by omega)), h] at hflip
    exact flipBit_ne (by omega) hb (wordOf_inj hword (by rwa [flipBit_length]) hflip).symm

/-! ### A pass of `Deframe` (R196) -/

theorem lenFieldAt_eq {s : List Byte} {p : Nat} (h : p + 8 ≤ s.length) :
    lenFieldAt s p =
      (s.getD (p + 5) 0).toNat * 65536 + (s.getD (p + 6) 0).toNat * 256 + (s.getD (p + 7) 0).toNat := by
  have hbytes : slice s (p + 5) 3 = [s.getD (p + 5) 0, s.getD (p + 6) 0, s.getD (p + 7) 0] := by
    refine List.ext_getElem (by rw [slice_length]; simp; omega) fun k hk hk' => ?_
    rw [← List.getD_eq_getElem _ 0 hk, slice_getD (by simpa using hk')]
    match k, hk' with
    | 0, _ | 1, _ | 2, _ => rfl
  rw [lenFieldAt, hbytes]
  simp [beNat]
  omega

section
variable {ps : Params} {d : Word} {s : List Byte} {fuel p es : Nat} {seen : List Byte} {got : List Block}

theorem deframeLoop_of_short (hshort : s.length < p + 12) :
    deframeLoop ps d s (fuel + 1) p seen got = .error (.unexpectedEndOfBuffer, p) := if_pos hshort

/-- A pass with the 12 bytes of a sentinel: they end the string or not. -/
theorem deframeLoop_of_sentinel (hroom : p + 12 ≤ s.length) (hzero : lenFieldAt s p = 0) :
    deframeLoop ps d s (fuel + 1) p seen got =
      if p + 12 ≠ s.length then .error (.extraBytesAtEndOfBuffer, p) else .ok (d, got) := by
  rw [deframeLoop, if_neg (Nat.not_lt.2 hroom)]
  simp only
  rw [← lenFieldAt_eq (by omega), if_pos (by omega)]

/-- A pass with the 12 bytes of a table header: the tests in their order. -/
theorem deframeLoop_of_header (hroom : p + 12 ≤ s.length) (hlen : lenFieldAt s p ≠ 0) :
    deframeLoop ps d s (fuel + 1) p seen got =
      if crcOf (slice s p 8) ≠ wordOf (slice s (p + 8) 4) then .error (.invalidTableHeaderCrc, p)
      else if s.length < p + 12 + lenFieldAt s p * 4 then .error (.unexpectedEndOfBuffer, p)
      else (entrySize ps d (s.getD p 0)).elim (.error (.tableHeaderUnknown, p)) fun es =>
        if s.getD p 0 ∈ seen then .error (.tableHeaderDuplicate, p)
        else if lenFieldAt s p * 4 % es ≠ 0 then .error (.incorrectTableLength, p + 12)
        else if s.length < p + 12 + lenFieldAt s p * 4 + 4 then .error (.unexpectedEndOfBuffer, p + 12)
        else if crcOf (slice s (p + 12) (lenFieldAt s p * 4)) ≠ wordOf (slice s (p + 12 + lenFieldAt s p * 4) 4) then
          .error (.dataCrcInvalid, p + 12)
        else deframeLoop ps d s fuel (p + 12 + lenFieldAt s p * 4 + 4) (s.getD p 0 :: seen)
          (got ++ [(s.getD p 0, slice s (p + 12) (lenFieldAt s p * 4))]) := by
  rw [deframeLoop, if_neg (Nat.not_lt.2 hroom)]
  simp only
  rw [← lenFieldAt_eq (by omega), if_neg (by omega), Nat.mul_comm 4]
  cases entrySize ps d (s.getD p 0) <;> rfl

end

/-! ### A table of a stream (R158, R202) -/

/-- What `blocksParsable` asks of one table. -/
def TableParsable (ps : Params) (d : Word) (b : Block) : Prop :=
  (b.2.length % 4 = 0 ∧ b.2.length < 2 ^ 26) ∧ 0 < b.2.length ∧
    ∃ es, entrySize ps d b.1 = some es ∧ b.2.length % es = 0

theorem blocksParsable_iff {ps : Params} {d : Word} {blocks : List Block} :
    blocksParsable ps d blocks ↔ (blocks.map (fun b => b.1)).Nodup ∧ ∀ b ∈ blocks, TableParsable ps d b := by
  simp only [blocksParsable, blocksFramable, TableParsable, forall_and]

/-- A header for the table `b` stands at `p`, with the table's bytes behind it. -/
structure HeaderAt (s : List Byte) (p : Nat) (b : Block) : Prop where
  blk : s.getD p 0 = b.1
  len : lenFieldAt s p * 4 = b.2.length
  crc : CrcAgreesAt s p 8
  fits : p + 12 + b.2.length + 4 ≤ s.length

/-- The table `b` stands at `p`. -/
structure TableAt (s : List Byte) (p : Nat) (b : Block) : Prop extends HeaderAt s p b where
  body : slice s (p + 12) b.2.length = b.2
  bodyCrc : CrcAgreesAt s (p + 12) b.2.length

section
variable {ps : Params} {d : Word} {s x z : List Byte} {fuel p : Nat} {seen : List Byte} {got : List Block} {b : Block}

/-- A pass at the header of a known table with whole entries: what is left is the test of the trailing CRC. -/
theorem deframeLoop_of_headerAt (h : HeaderAt s p b) (hb : TableParsable ps d b) (hseen : b.1 ∉ seen) :
    deframeLoop ps d s (fuel + 1) p seen got =
      if crcOf (slice s (p + 12) b.2.length) ≠ wordOf (slice s (p + 12 + b.2.length) 4) then
        .error (.dataCrcInvalid, p + 12)
      else deframeLoop ps d s fuel (p + 12 + b.2.length + 4) (b.1 :: seen)
        (got ++ [(b.1, slice s (p + 12) b.2.length)]) := by
  obtain ⟨hblk, hlen, hcrc, hfits⟩ := h
  obtain ⟨-, hpos, es, hes, hrem⟩ := hb
  rw [deframeLoop_of_header (by omega) (by omega), if_neg (not_not_intro hcrc), hblk, hlen, if_neg (by omega), hes,
    Option.elim_some, if_neg hseen, if_neg (not_not_intro hrem), if_neg (by omega)]

theorem deframeLoop_of_tableAt (h : TableAt s p b) (hb : TableParsable ps d b) (hseen : b.1 ∉ seen) :
    deframeLoop ps d s (fuel + 1) p seen got =
      deframeLoop ps d s fuel (p + blockLength b) (b.1 :: seen) (got ++ [b]) := by
  have hpos : b.2.length ≠ 0 := by have := hb.2.1; omega
  rw [deframeLoop_of_headerAt h.toHeaderAt hb hseen, if_neg (not_not_intro h.bodyCrc), h.body, blockLength, if_neg hpos]
  simp only [Nat.add_assoc]

theorem slice_append_middle {y : List Byte} {n : Nat} (hp : p = x.length) (hn : n = y.length) :
    slice (x ++ (y ++ z)) p n = y := by
  rw [hp, hn, ← Nat.add_zero x.length, slice_append (by omega), slice_zero_length]

/-- The fields of a header of `Frame` (R155, R157). -/
theorem headerAt_append {len : BitVec 24} (hlen : len.toNat * 4 = b.2.length)
    (hfits : 12 + b.2.length + 4 ≤ (hdrBytes b.1 len ++ z).length) :
    HeaderAt (x ++ (hdrBytes b.1 len ++ z)) x.length b := by
  have hheader := slice_append_middle (x := x) (z := z) rfl (hdrBytes_length b.1 len).symm
  have hfield : ∀ k m, k + m ≤ 12 → slice (x ++ (hdrBytes b.1 len ++ z)) (x.length + k) m =
      slice (header8 b.1 len ++ bigEndian4 (crcOf (header8 b.1 len))) k m :=
    fun k m hle => by rw [← hdrBytes_eq, ← slice_slice hle, hheader]
  refine ⟨?_, ?_, ?_, ?_⟩
  · refine ((slice_getD (k := 0) (n := 12) (by decide)).symm.trans (congrArg (·.getD 0 0) hheader)).trans ?_
    rw [hdrBytes_eq]
    rfl
  · rw [← hlen, lenFieldAt, hfield _ _ (by omega)]
    congr 1
    have hlt := len.isLt
    simp [slice, header8, bigEndian4, beNat, Nat.shiftRight_eq_div_pow]
    omega
  · have hbytes := hfield 0 8 (by omega)
    rw [Nat.add_zero] at hbytes
    rw [CrcAgreesAt, hbytes, hfield _ _ (by omega)]
    generalize hc : crcOf (header8 b.1 len) = c
    have hword : slice (header8 b.1 len ++ bigEndian4 c) 8 4 = wordBytes c := (wordBytes_eq_bigEndian4 c).symm
    rw [hword, wordOf_wordBytes, ← hc]
    rfl
  · rw [List.length_append]
    omega

/-- A table of `Frame` stands where it is put. -/
theorem tableAt_append (hb : TableParsable ps d b) : TableAt (x ++ (blockBytes b ++ z)) x.length b := by
  obtain ⟨⟨hwords, hsize⟩, hpos, -⟩ := hb
  have hlen : (BitVec.ofNat 24 (b.2.length / 4)).toNat * 4 = b.2.length := by
    rw [BitVec.toNat_ofNat, Nat.mod_eq_of_lt (by omega)]
    omega
  rw [blockBytes, if_neg (by omega)]
  generalize BitVec.ofNat 24 (b.2.length / 4) = len at hlen
  simp only [List.append_assoc]
  have hbody := slice_append_middle (x := x ++ hdrBytes b.1 len) (z := wordBytes (crcOf b.2) ++ z)
    (p := x.length + 12) (by simp) (rfl : b.2.length = _)
  have htrailer := slice_append_middle (x := (x ++ hdrBytes b.1 len) ++ b.2) (z := z)
    (p := x.length + 12 + b.2.length) (by simp [Nat.add_assoc]) (wordBytes_length (crcOf b.2)).symm
  simp only [List.append_assoc] at hbody htrailer
  refine ⟨headerAt_append hlen (by simp; omega), hbody, ?_⟩
  rw [CrcAgreesAt, hbody, htrailer, wordOf_wordBytes]

end

/-! ### The tables of a stream -/

section
variable {ps : Params} {d : Word} {pre : List Block} {z : List Byte} {fuel : Nat}

theorem tableOffset_append (pre : List Block) (b : Block) : tableOffset (pre ++ [b]) = tableOffset pre + blockLength b := by
  simp [tableOffset, Nat.add_assoc]

theorem length_flatMap_blockBytes (pre : List Block) :
    (wordBytes d ++ pre.flatMap blockBytes).length = tableOffset pre := by
  simp [tableOffset, blockBytes_length]

/-- Distinct known tables are passed one by one. -/
theorem deframeLoop_of_tables (hids : (pre.map (fun b => b.1)).Nodup) (hpre : ∀ b ∈ pre, TableParsable ps d b) :
    deframeLoop ps d (wordBytes d ++ (pre.flatMap blockBytes ++ z)) (pre.length + fuel) 4 [] [] =
      deframeLoop ps d (wordBytes d ++ (pre.flatMap blockBytes ++ z)) fuel (tableOffset pre)
        (pre.map (fun b => b.1)).reverse pre := by
  induction pre using List.reverseRecOn generalizing z fuel with
  | nil => simp [tableOffset]
  | append_singleton pre b ih =>
    simp only [List.map_append, List.map_cons, List.map_nil, List.nodup_append] at hids
    obtain ⟨hpre, hb⟩ := List.forall_mem_append.1 hpre
    have hseen : b.1 ∉ (pre.map (fun b => b.1)).reverse := by
      intro hmem
      exact hids.2.2 _ (List.mem_reverse.1 hmem) b.1 (by simp) rfl
    have htable := tableAt_append (x := wordBytes d ++ pre.flatMap blockBytes) (z := z) (hb b (by simp))
    rw [length_flatMap_blockBytes] at htable
    simp only [List.append_assoc] at htable
    simp only [List.flatMap_append, List.flatMap_cons, List.flatMap_nil, List.append_nil, List.append_assoc,
      List.length_append, List.length_singleton, List.map_append, List.map_cons, List.map_nil, List.reverse_append,
      List.reverse_singleton, List.singleton_append, tableOffset_append]
    rw [Nat.add_assoc, Nat.add_comm 1, ih hids.1 hpre, deframeLoop_of_tableAt htable (hb b (by simp)) hseen]

/-- `Deframe` from the first table that is not in `pre` on: every table takes more than 16 bytes, so that fuel is left. -/
theorem exists_deframe_eq (hd : d ∈ ps.deviceIds) (hids : (pre.map (fun b => b.1)).Nodup)
    (hpre : ∀ b ∈ pre, TableParsable ps d b) :
    ∃ fuel, deframe ps (wordBytes d ++ (pre.flatMap blockBytes ++ z)) =
      deframeLoop ps d (wordBytes d ++ (pre.flatMap blockBytes ++ z)) (fuel + 1) (tableOffset pre)
        (pre.map (fun b => b.1)).reverse pre := by
  have hword : slice (wordBytes d ++ (pre.flatMap blockBytes ++ z)) 0 4 = wordBytes d :=
    slice_append_middle (x := []) rfl (wordBytes_length d).symm
  have hlength : pre.length * 16 + 4 ≤ (wordBytes d ++ (pre.flatMap blockBytes ++ z)).length := by
    have htables : pre.length * 16 ≤ (pre.map blockLength).sum := by
      rw [← List.length_map (f := blockLength), ← smul_eq_mul]
      refine List.card_nsmul_le_sum _ _ fun n hn => ?_
      obtain ⟨b, hb, rfl⟩ := List.mem_map.1 hn
      have hpos := (hpre b hb).2.1
      rw [blockLength, if_neg (by omega)]
      omega
    rw [← List.append_assoc, List.length_append, length_flatMap_blockBytes, tableOffset]
    omega
  obtain ⟨fuel, hfuel⟩ := Nat.exists_eq_add_of_le
    (show pre.length + 1 ≤ (wordBytes d ++ (pre.flatMap blockBytes ++ z)).length / 16 + 1 by omega)
  refine ⟨fuel, ?_⟩
  rw [deframe, if_neg (by omega), hword, wordOf_wordBytes, if_neg (not_not_intro hd), hfuel, Nat.add_assoc,
    Nat.add_comm 1, deframeLoop_of_tables hids hpre]

end

/-- Settles O52: after the tables stands the sentinel, which ends the stream. -/
theorem deframeOfFrameIsTheStream : Obligations.DeframeOfFrameIsTheStream := by
  intro p devid blocks hd hblocks
  obtain ⟨hids, htables⟩ := blocksParsable_iff.1 hblocks
  obtain ⟨fuel, hdeframe⟩ := exists_deframe_eq (z := sentinelBytes p) hd hids htables
  have hsentinel := slice_append_middle (x := wordBytes devid ++ blocks.flatMap blockBytes) (z := [])
    (length_flatMap_blockBytes blocks).symm (sentinelBytes_length p).symm
  have hlength : tableOffset blocks + 12 = (wordBytes devid ++ (blocks.flatMap blockBytes ++ sentinelBytes p)).length := by
    rw [← List.append_assoc, List.length_append, length_flatMap_blockBytes, sentinelBytes_length]
  rw [List.append_nil, List.append_assoc] at hsentinel
  have hzero : lenFieldAt (wordBytes devid ++ (blocks.flatMap blockBytes ++ sentinelBytes p)) (tableOffset blocks) = 0 := by
    rw [lenFieldAt, ← slice_slice (show 5 + 3 ≤ 12 by decide), hsentinel]
    rfl
  rw [frame, List.append_assoc, hdeframe, deframeLoop_of_sentinel hlength.le hzero, if_neg (not_not_intro hlength)]

/-! ### One inverted bit (R203) -/

section
variable {s : List Byte} {p i b : Nat} {t : Block}

/-- An inverted bit behind a header leaves the header. -/
theorem HeaderAt.flipBit (h : HeaderAt s p t) (hi : p + 12 ≤ i) : HeaderAt (flipBit s i b) p t where
  blk := (getD_flipBit_of_lt (by omega)).trans h.blk
  len := by rw [lenFieldAt, slice_flipBit_of_not_mem (.inr (by omega))]; exact h.len
  crc := by
    rw [CrcAgreesAt, slice_flipBit_of_not_mem (.inr (by omega)), slice_flipBit_of_not_mem (.inr (by omega))]
    exact h.crc
  fits := by rw [flipBit_length]; exact h.fits

end

section
variable {ps : Params} {d : Word} {pre post : List Block} {t : Block}

/-- A stream from one of its tables on. -/
theorem frame_append (ps : Params) (d : Word) (pre : List Block) (t : Block) (post : List Block) :
    frame ps d (pre ++ t :: post) =
      wordBytes d ++ pre.flatMap blockBytes ++ (blockBytes t ++ (post.flatMap blockBytes ++ sentinelBytes ps)) := by
  simp [frame]

theorem tableAt_frame (ht : TableParsable ps d t) : TableAt (frame ps d (pre ++ t :: post)) (tableOffset pre) t := by
  rw [frame_append, ← length_flatMap_blockBytes (d := d)]
  exact tableAt_append ht

/-- A bit inverted behind the tables `pre` leaves `Deframe` at the next table. -/
theorem exists_deframe_flipBit_eq (hd : d ∈ ps.deviceIds) (hids : (pre.map (fun b => b.1)).Nodup)
    (hpre : ∀ b ∈ pre, TableParsable ps d b) (i b : Nat) :
    ∃ fuel, deframe ps (flipBit (frame ps d (pre ++ t :: post)) (tableOffset pre + i) b) =
      deframeLoop ps d (flipBit (frame ps d (pre ++ t :: post)) (tableOffset pre + i) b) (fuel + 1) (tableOffset pre)
        (pre.map (fun b => b.1)).reverse pre := by
  rw [frame_append, ← length_flatMap_blockBytes (d := d), flipBit_append, List.append_assoc, length_flatMap_blockBytes]
  exact exists_deframe_eq hd hids hpre

end

/-- Settles O56: the tables before the inverted bit pass; at its table the header or the body disagrees with its CRC, or the
header is that of a sentinel which does not end the stream. -/
theorem flippedTableBitFailsTheParse : Obligations.FlippedTableBitFailsTheParse := by
  intro p devid pre post blk body i b hd hblocks hb s off
  obtain ⟨hids, htables⟩ := blocksParsable_iff.1 hblocks
  obtain ⟨hpre, hrest⟩ := List.forall_mem_append.1 htables
  have ht := hrest (blk, body) (by simp)
  rw [List.map_append, List.nodup_append] at hids
  obtain ⟨hpreIds, -, hdisjoint⟩ := hids
  have hseen : blk ∉ (pre.map (fun b => b.1)).reverse :=
    fun hmem => hdisjoint blk (List.mem_reverse.1 hmem) blk (by simp) rfl
  have htable : TableAt s off (blk, body) := tableAt_frame ht
  have hfits := htable.fits
  refine ⟨fun hi => ?_, fun hi hlen => ?_, fun hi hzero => ?_⟩
  · obtain ⟨fuel, hdeframe⟩ := exists_deframe_flipBit_eq (t := (blk, body)) (post := post) hd hpreIds hpre (12 + i) b
    rw [← Nat.add_assoc] at hdeframe
    have hheader : HeaderAt (flipBit s (off + 12 + i) b) off (blk, body) := htable.toHeaderAt.flipBit (by omega)
    have hcrc := not_crcAgreesAt_flipBit htable.bodyCrc ht.1.1 hfits hi hb
    exact hdeframe.trans ((deframeLoop_of_headerAt hheader ht hseen).trans (if_pos hcrc))
  · obtain ⟨fuel, hdeframe⟩ := exists_deframe_flipBit_eq (t := (blk, body)) (post := post) hd hpreIds hpre i b
    have hcrc := not_crcAgreesAt_flipBit htable.crc (by decide) (by omega) hi hb
    exact hdeframe.trans ((deframeLoop_of_header (by rw [flipBit_length]; omega) hlen).trans (if_pos hcrc))
  · obtain ⟨fuel, hdeframe⟩ := exists_deframe_flipBit_eq (t := (blk, body)) (post := post) hd hpreIds hpre i b
    have hlength : (flipBit s (off + i) b).length = s.length := flipBit_length
    exact hdeframe.trans ((deframeLoop_of_sentinel (by omega) hzero).trans (if_pos (by omega)))

end Sys2Proof.Machine
end

section
/-! PROOFS. The statement of 43_framer_parse.md about the host's parse sequence. A pass of the sequence and a pass of
`Deframe` make the same tests of the same bytes: in step before a header, they are in step before the next one or both end. -/

namespace Sys2Proof.Machine

/-! ### The ends of the two (R195, R196) -/

/-- The parse sequence of a stream at `base` ended as `e`, and that is what `Deframe` answers in `r`. -/
def EndsAs (base : Nat) (r : Except (ErrorKind × Nat) (Word × List Block)) (e : Option ParseEnd) : Prop :=
  (∀ d blocks, r = .ok (d, blocks) →
    ∃ t, e = some (t, blocks) ∧ t.status = 0 ∧ t.frstate = FrState.done ∧ t.devid = d ∧ t.pos = t.limit) ∧
  ∀ k off, r = .error (k, off) →
    ∃ t got, e = some (t, got) ∧ t.status = statusOf k ∧ t.frstate = FrState.failed ∧ t.pos.toNat = base + off

section
variable {base off fuel : Nat} {s t u : State} {k : ErrorKind} {got : List Block}

theorem endsAs_ok (hstatus : t.status = 0) (hst : t.frstate = FrState.done) (hend : t.pos = t.limit) :
    EndsAs base (.ok (t.devid, got)) (some (t, got)) := by
  refine ⟨fun d blocks h => ?_, nofun⟩
  obtain ⟨rfl, rfl⟩ := Prod.mk.inj (Except.ok.inj h)
  exact ⟨t, rfl, hstatus, hst, rfl, hend⟩

theorem endsAs_fail (hpos : u.pos.toNat = base + off) : EndsAs base (.error (k, off)) (some (u.fail k, got)) := by
  refine ⟨nofun, fun k' off' h => ?_⟩
  obtain ⟨rfl, rfl⟩ := Prod.mk.inj (Except.error.inj h)
  exact ⟨_, got, rfl, rfl, rfl, hpos⟩

/-! ### A pass of the sequence (R195) -/

theorem parseLoop_of_getHdr (hexec : exec .getHdr s = .next t) (hst : t.frstate ≠ FrState.body) :
    parseLoop (fuel + 1) s got = some (t, got) := by
  simp only [parseLoop, hexec, if_pos hst]

theorem parseLoop_of_getBody (hhdr : exec .getHdr s = .next t) (hst : t.frstate = FrState.body)
    (hbody : exec .getBody t = .next u) :
    parseLoop (fuel + 1) s got =
      if u.status ≠ statusOk then some (u, got)
      else parseLoop fuel u (got ++ [(u.blkid, u.memRead (u.pos.toNat - 4 - u.bodyLen) u.bodyLen)]) := by
  simp only [parseLoop, hhdr, hbody, hst, ne_eq, not_true_eq_false, if_false]
  rfl

theorem statusOf_ne_statusOk (k : ErrorKind) : statusOf k ≠ statusOk := by
  cases k <;> decide

end

/-! ### The sequence in step with `Deframe` -/

/-- The framer is in state `st` at offset `p` of the stream `bytes` at `base`, which lies in BUF, and SEEN is `seen`. -/
structure State.ParsesAt (base : Nat) (bytes : List Byte) (st : BitVec 3) (p : Nat) (seen : List Byte) (s : State) :
    Prop where
  mode : s.frmode = FrMode.unpack
  state : s.frstate = st
  pos : s.pos.toNat = base + p
  limit : s.limit.toNat = base + bytes.length
  region : s.limit.toNat ≤ s.bufBytes
  read : s.memRead base bytes.length = bytes
  fits : p ≤ bytes.length
  seen : ∀ b : Byte, s.seen.getLsbD b.toNat = decide (b ∈ seen)

section
variable {base p n k fuel : Nat} {bytes : List Byte} {st st' : BitVec 3} {seen seen' : List Byte} {s t : State}

theorem State.ParsesAt.canParse (h : s.ParsesAt base bytes st p seen) (hn : p + n ≤ bytes.length) :
    s.canParse st n :=
  ⟨h.mode, h.state, by rw [h.pos, h.limit]; omega⟩

theorem State.ParsesAt.limit_lt (h : s.ParsesAt base bytes st p seen) (hn : bytes.length < p + n) :
    s.limit.toNat < s.pos.toNat + n := by
  rw [h.pos, h.limit]
  omega

/-- A command that completes moves the framer on in the same stream. -/
theorem State.ParsesAt.next {regs : List Reg} (h : s.ParsesAt base bytes st p seen) (ht : ChangesOnly regs noByte s t)
    (hregs : Reg.limit ∉ regs ∧ Reg.frmode ∉ regs) (hst : t.frstate = st') (hpos : t.pos.toNat = s.pos.toNat + n)
    (hfits : p + n ≤ bytes.length) (hseen : ∀ b : Byte, t.seen.getLsbD b.toNat = decide (b ∈ seen')) :
    t.ParsesAt base bytes st' (p + n) seen' where
  mode := (BitVec.eq_of_toNat_eq (ht.regs_kept .frmode hregs.2)).trans h.mode
  state := hst
  pos := by rw [hpos, h.pos, Nat.add_assoc]
  limit := (ht.regs_kept .limit hregs.1).trans h.limit
  region := by
    have hlimit : t.limit.toNat = s.limit.toNat := ht.regs_kept .limit hregs.1
    rw [hlimit, State.bufBytes, ht.params_kept]
    exact h.region
  read := (State.memRead_congr _ _ _ _ _ fun _ _ => ht.bytes_kept _ id).trans h.read
  fits := hfits
  seen := hseen

/-- What the framer reads behind POS is what stands there in the stream. -/
theorem State.ParsesAt.memRead_eq (h : s.ParsesAt base bytes st p seen) (hk : p + k + n ≤ bytes.length) :
    s.memRead (s.pos.toNat + k) n = slice bytes (p + k) n := by
  rw [← h.read, slice, State.memRead_drop, State.memRead_take _ _ _ _ (by omega), h.pos, Nat.add_assoc]

section
variable (h : s.ParsesAt base bytes st p seen) (hroom : p + 12 ≤ bytes.length)
include h hroom

theorem State.ParsesAt.hdrAtPos_eq : s.hdrAtPos = slice bytes p 12 := h.memRead_eq (k := 0) hroom

theorem State.ParsesAt.hdrBlk_eq : s.hdrBlk = bytes.getD p 0 := by
  rw [State.hdrBlk, h.hdrAtPos_eq hroom, slice_getD (by decide), Nat.add_zero]

theorem State.ParsesAt.hdrLen_eq : s.hdrLen = lenFieldAt bytes p := by
  rw [State.hdrLen, h.hdrAtPos_eq hroom, lenFieldAt]
  exact congrArg beNat (slice_slice (k := 5) (by decide))

theorem State.ParsesAt.hdrOwnCrc_eq : s.hdrOwnCrc = crcOf (slice bytes p 8) := by
  rw [State.hdrOwnCrc, h.hdrAtPos_eq hroom]
  exact congrArg crcOf (slice_slice (k := 0) (by decide))

theorem State.ParsesAt.hdrRdcrc_eq : s.hdrRdcrc = wordOf (slice bytes (p + 8) 4) := by
  have hword : (slice bytes (p + 8) 4).length = 4 := by rw [slice_length]; omega
  rw [State.hdrRdcrc, h.hdrAtPos_eq hroom, wordOf_eq_beNat _ hword, slice, List.drop_take, List.drop_drop]
  rfl

end

theorem State.ParsesAt.bodyCrc_eq (h : s.ParsesAt base bytes st p seen) (hroom : p + s.bodyLen + 4 ≤ bytes.length) :
    s.bodyCrc = crcOf (slice bytes p s.bodyLen) :=
  congrArg crcOf (h.memRead_eq (k := 0) (by omega))

theorem State.ParsesAt.trailingCrc_eq (h : s.ParsesAt base bytes st p seen)
    (hroom : p + s.bodyLen + 4 ≤ bytes.length) : s.trailingCrc = wordOf (slice bytes (p + s.bodyLen) 4) := by
  rw [State.trailingCrc, h.memRead_eq hroom, wordOf_eq_beNat]
  rw [slice_length]
  omega

/-- After an accepting GET_HDR (R190, R194). -/
theorem State.ParsesAt.pastHdr (h : s.ParsesAt base bytes FrState.hdr p seen) (hroom : p + 12 ≤ bytes.length) :
    s.pastHdr.ParsesAt base bytes FrState.body (p + 12) (s.hdrBlk :: seen) := by
  refine h.next s.pastHdr_changesOnly (by decide) rfl (State.advance_ok_pos_toNat (h.canParse hroom).2.2) hroom fun b => ?_
  refine (seenWith_getLsbD s.seen s.hdrBlk b).trans ?_
  rw [h.seen, Bool.or_comm, beq_eq_decide, ← Bool.decide_or, decide_eq_decide, List.mem_cons]

/-- After a GET_BODY that completes (R192). -/
theorem State.ParsesAt.pastBody (h : s.ParsesAt base bytes FrState.body p seen)
    (hroom : p + (s.bodyLen + 4) ≤ bytes.length) (es : Nat) :
    (s.pastBody es).ParsesAt base bytes FrState.hdr (p + (s.bodyLen + 4)) seen :=
  h.next (s.pastBody_changesOnly es) (by decide) rfl (State.advance_ok_pos_toNat (h.canParse hroom).2.2) hroom h.seen

/-- The body the host collects after a GET_BODY lies before POS and the trailing CRC (R195). -/
theorem State.ParsesAt.memRead_pastBody (h : s.ParsesAt base bytes FrState.body p seen)
    (hroom : p + (s.bodyLen + 4) ≤ bytes.length) (es : Nat) :
    (s.pastBody es).memRead ((s.pastBody es).pos.toNat - 4 - (s.pastBody es).bodyLen) (s.pastBody es).bodyLen =
      slice bytes p s.bodyLen := by
  have hpos : (s.pastBody es).pos.toNat - 4 - s.bodyLen = s.pos.toNat := by
    rw [State.pastBody, State.advance_ok_pos_toNat (h.canParse hroom).2.2]
    omega
  have hread : (s.pastBody es).memRead = s.memRead := by simp [State.pastBody, State.withBodyCrcs]
  rw [State.pastBody_bodyLen, hpos, hread]
  exact h.memRead_eq (k := 0) (by omega)

/-- A GET_HDR that fails ends the sequence at the header, a GET_BODY that fails at the body. -/
theorem State.ParsesAt.endsAs_getHdr {e : ErrorKind} {u : State} {got : List Block}
    (h : s.ParsesAt base bytes st p seen) (hexec : exec .getHdr s = .next (u.fail e)) (hu : u.pos = s.pos) :
    EndsAs base (.error (e, p)) (parseLoop (fuel + 1) s got) := by
  rw [parseLoop_of_getHdr hexec (by rw [State.fail_frstate]; decide)]
  exact endsAs_fail (by rw [hu, h.pos])

theorem State.ParsesAt.endsAs_getBody {e : ErrorKind} {u : State} {got : List Block}
    (h : t.ParsesAt base bytes FrState.body p seen) (hhdr : exec .getHdr s = .next t)
    (hexec : exec .getBody t = .next (u.fail e)) (hu : u.pos = t.pos) :
    EndsAs base (.error (e, p)) (parseLoop (fuel + 1) s got) := by
  rw [parseLoop_of_getBody hhdr h.state hexec, if_pos (by rw [State.fail_status]; exact statusOf_ne_statusOk e)]
  exact endsAs_fail (by rw [hu, h.pos])

/-- The second half of a pass, from the body on (R192): `r` is what `Deframe` answers from behind the body. -/
theorem State.ParsesAt.endsAs_body {es : Nat} {got : List Block} {r : Except (ErrorKind × Nat) (Word × List Block)}
    (h : t.ParsesAt base bytes FrState.body p seen) (hhdr : exec .getHdr s = .next t)
    (hes : entrySize t.params t.devid t.blkid = some es)
    (hrest : p + (t.bodyLen + 4) ≤ bytes.length →
      EndsAs base r (parseLoop fuel (t.pastBody es) (got ++ [(t.blkid, slice bytes p t.bodyLen)]))) :
    EndsAs base
      (if t.bodyLen % es ≠ 0 then .error (.incorrectTableLength, p)
      else if bytes.length < p + t.bodyLen + 4 then .error (.unexpectedEndOfBuffer, p)
      else if crcOf (slice bytes p t.bodyLen) ≠ wordOf (slice bytes (p + t.bodyLen) 4) then .error (.dataCrcInvalid, p)
      else r)
      (parseLoop (fuel + 1) s got) := by
  have hcan := h.canParse (n := 0) h.fits
  by_cases hrem : t.bodyLen % es = 0
  · rw [if_neg (not_not_intro hrem)]
    rcases Nat.lt_or_ge bytes.length (p + t.bodyLen + 4) with hshort | hroom
    · rw [if_pos hshort]
      have hlimit := h.limit_lt (n := t.bodyLen + 4) (by omega)
      exact h.endsAs_getBody hhdr (exec_getBody_of_short hcan hes hrem (by omega)) rfl
    · rw [if_neg (Nat.not_lt.2 hroom), ← h.bodyCrc_eq hroom, ← h.trailingCrc_eq hroom]
      rw [Nat.add_assoc] at hroom
      have hcan := h.canParse hroom
      by_cases hcrc : t.bodyCrc = t.trailingCrc
      · rw [if_neg (not_not_intro hcrc),
          parseLoop_of_getBody hhdr h.state (exec_getBody_of_accepted hcan h.region hes hrem hcrc),
          if_neg (not_not_intro (t.pastBody_status es)), State.pastBody_blkid, h.memRead_pastBody hroom]
        exact hrest hroom
      · rw [if_pos hcrc]
        exact h.endsAs_getBody hhdr (exec_getBody_of_badCrc hcan h.region hes hrem hcrc) t.withBodyCrcs_pos
  · rw [if_pos hrem]
    exact h.endsAs_getBody hhdr (exec_getBody_of_remainder hcan hes hrem) rfl

/-- A pass at a sentinel ends both (R190 test 2). -/
theorem State.ParsesAt.endsAs_sentinel {got : List Block} (h : s.ParsesAt base bytes FrState.hdr p seen)
    (hroom : p + 12 ≤ bytes.length) (hzero : lenFieldAt bytes p = 0) :
    EndsAs base (deframeLoop s.params s.devid bytes (fuel + 1) p seen got) (parseLoop (fuel + 1) s got) := by
  have hcan := h.canParse hroom
  have hlen := (h.hdrLen_eq hroom).trans hzero
  rw [deframeLoop_of_sentinel hroom hzero]
  by_cases hend : p + 12 = bytes.length
  · have hlimit : s.pos.toNat + 12 = s.limit.toNat := by rw [h.pos, h.limit, ← hend, Nat.add_assoc]
    rw [if_neg (not_not_intro hend),
      parseLoop_of_getHdr (exec_getHdr_of_end hcan h.region hlen hlimit) (show FrState.done ≠ FrState.body by decide)]
    exact endsAs_ok (t := (s.withHdr.advance (s.pos.toNat + 12) FrState.done).ok) rfl rfl
      (BitVec.eq_of_toNat_eq ((State.advance_ok_pos_toNat hcan.2.2).trans hlimit))
  · rw [if_pos hend]
    exact h.endsAs_getHdr (exec_getHdr_of_extraBytes hcan h.region hlen (by rw [h.pos, h.limit]; omega)) s.withHdr_pos

/-- A pass at a table header: a failing test ends both, else they come to the next header in step (R190 tests 3 to 6). -/
theorem State.ParsesAt.endsAs_header {got : List Block} (h : s.ParsesAt base bytes FrState.hdr p seen)
    (hroom : p + 12 ≤ bytes.length) (hlen : lenFieldAt bytes p ≠ 0)
    (hrest : ∀ {p' : Nat} {seen' : List Byte} {u : State} {got' : List Block},
      u.ParsesAt base bytes FrState.hdr p' seen' → p + 16 ≤ p' →
      EndsAs base (deframeLoop u.params u.devid bytes fuel p' seen' got') (parseLoop fuel u got')) :
    EndsAs base (deframeLoop s.params s.devid bytes (fuel + 1) p seen got) (parseLoop (fuel + 1) s got) := by
  have hcan := h.canParse hroom
  rw [deframeLoop_of_header hroom hlen, ← h.hdrOwnCrc_eq hroom, ← h.hdrRdcrc_eq hroom, ← h.hdrBlk_eq hroom]
  rw [← h.hdrLen_eq hroom] at hlen ⊢
  by_cases hcrc : s.hdrOwnCrc = s.hdrRdcrc
  swap
  · rw [if_pos hcrc]
    exact h.endsAs_getHdr (exec_getHdr_of_badCrc hcan h.region hlen hcrc) s.withHdrCrc_pos
  rw [if_neg (not_not_intro hcrc)]
  rcases Nat.lt_or_ge bytes.length (p + 12 + s.hdrLen * 4) with hshort | hbody
  · rw [if_pos hshort]
    have hlimit := h.limit_lt (n := 12 + s.hdrLen * 4) (by omega)
    exact h.endsAs_getHdr (exec_getHdr_of_noBody hcan h.region hlen hcrc (by omega)) s.withHdrCrc_pos
  have hlimit : s.pos.toNat + 12 + s.hdrLen * 4 ≤ s.limit.toNat := by rw [h.pos, h.limit]; omega
  have hbit := h.seen s.hdrBlk
  rw [if_neg (Nat.not_lt.2 hbody)]
  cases hes : entrySize s.params s.devid s.hdrBlk with
  | none => exact h.endsAs_getHdr (exec_getHdr_of_unknown hcan h.region hlen hcrc hlimit hes) s.withHdrCrc_pos
  | some es =>
    have hdefined : entrySize s.params s.devid s.hdrBlk ≠ none := by rw [hes]; exact Option.some_ne_none es
    rw [Option.elim_some]
    by_cases hseen : s.hdrBlk ∈ seen
    · rw [if_pos hseen]
      rw [decide_eq_true hseen] at hbit
      exact h.endsAs_getHdr (exec_getHdr_of_duplicate hcan h.region hlen hcrc hlimit hdefined hbit) s.withHdrCrc_pos
    · rw [if_neg hseen, ← State.pastHdr_bodyLen]
      rw [decide_eq_false hseen] at hbit
      have hhdr := exec_getHdr_of_accepted hcan h.region hlen hcrc hlimit hdefined hbit
      have hpast := h.pastHdr hroom
      have hentries : entrySize s.pastHdr.params s.pastHdr.devid s.pastHdr.blkid = some es := by
        rw [State.pastHdr_params, State.pastHdr_devid, State.pastHdr_blkid, hes]
      refine hpast.endsAs_body hhdr hentries fun hfits => ?_
      have hnext := hrest (got' := got ++ [(s.hdrBlk, slice bytes (p + 12) s.pastHdr.bodyLen)])
        (hpast.pastBody hfits es) (by omega)
      rwa [State.pastBody_params, State.pastHdr_params, State.pastBody_devid, State.pastHdr_devid,
        ← Nat.add_assoc] at hnext

/-- In step before a header, the two end alike: every pass takes at least 16 bytes, so that the fuel does not end them. -/
theorem State.ParsesAt.endsAs_loop : ∀ {fuel p : Nat} {seen : List Byte} {s : State} {got : List Block},
    s.ParsesAt base bytes FrState.hdr p seen → bytes.length < p + 16 * fuel →
    EndsAs base (deframeLoop s.params s.devid bytes fuel p seen got) (parseLoop fuel s got) := by
  intro fuel
  induction fuel with
  | zero => exact fun h hfuel => absurd h.fits (by omega)
  | succ fuel ih =>
    intro p seen s got h hfuel
    rcases Nat.lt_or_ge bytes.length (p + 12) with hshort | hroom
    · rw [deframeLoop_of_short hshort]
      exact h.endsAs_getHdr (exec_getHdr_of_short (h.canParse h.fits) (h.limit_lt hshort)) rfl
    · by_cases hzero : lenFieldAt bytes p = 0
      · exact h.endsAs_sentinel hroom hzero
      · exact h.endsAs_header hroom hzero fun hnext hpast => ih hnext (by omega)

end

/-! ### The sequence from FR_BEGIN on -/

theorem parseSequence_of_getDevid {s t u : State} (hbegin : exec (.frBegin FrMode.unpack) s = .next t)
    (hdevid : exec .getDevid t = .next u) :
    parseSequence s = if u.status ≠ statusOk then some (u, []) else parseLoop (s.len.toNat / 16 + 1) u [] := by
  simp only [parseSequence, hbegin, hdevid]

/-- FR_BEGIN puts the framer at the start of the stream (42_framer_emit.md R160). -/
theorem State.beginStream_parsesAt {s : State} (hspan : s.base.toNat + s.len.toNat ≤ s.bufBytes) :
    (s.beginStream FrMode.unpack (s.base.toNat + s.len.toNat)).ok.ParsesAt s.base.toNat
      (s.memRead s.base.toNat s.len.toNat) FrState.devid 0 [] := by
  have hlimit := State.beginStream_ok_limit_toNat (s := s) (m := FrMode.unpack)
    (Nat.lt_of_le_of_lt hspan s.bufBytes_lt)
  exact
    { mode := rfl
      state := rfl
      pos := rfl
      limit := by rw [hlimit, State.memRead_length]
      region := by rw [hlimit]; exact hspan
      read := by rw [State.memRead_length, State.ok_memRead, State.beginStream_memRead]
      fits := Nat.zero_le _
      seen := fun b => by simp }

/-- GET_DEVID and the loop in step with `Deframe` from the start. -/
theorem State.ParsesAt.endsAs_sequence {base : Nat} {bytes : List Byte} {s t : State}
    (h : t.ParsesAt base bytes FrState.devid 0 []) (hbegin : exec (.frBegin FrMode.unpack) s = .next t)
    (hlen : bytes.length = s.len.toNat) : EndsAs base (deframe t.params bytes) (parseSequence s) := by
  have hfailed : ∀ {e u}, exec .getDevid t = .next (State.fail u e) → u.pos = t.pos →
      EndsAs base (.error (e, 0)) (parseSequence s) := by
    intro e u hexec hu
    rw [parseSequence_of_getDevid hbegin hexec, if_pos (by rw [State.fail_status]; exact statusOf_ne_statusOk e)]
    exact endsAs_fail (by rw [hu, h.pos])
  rw [deframe]
  rcases Nat.lt_or_ge bytes.length 4 with hshort | hroom
  · rw [if_pos hshort]
    exact hfailed (exec_getDevid_of_short (h.canParse h.fits) (h.limit_lt (by omega))) rfl
  have hcan := h.canParse (n := 4) (by omega)
  have hword : t.wordAtPos = wordOf (slice bytes 0 4) := by
    rw [State.wordAtPos, ← wordOf_eq_beNat _ (t.memRead_length _ _)]
    exact congrArg wordOf (h.memRead_eq (k := 0) (by omega))
  rw [if_neg (Nat.not_lt.2 hroom), ← hword]
  by_cases hid : t.wordAtPos ∈ t.params.deviceIds
  · have hexec := exec_getDevid_of_known hcan h.region hid
    have hnext := h.next (st' := FrState.hdr) ((t.setDevid_changesOnly t.wordAtPos).comp
      (State.advance_ok_changesOnly _ (t.pos.toNat + 4) FrState.hdr)) (by decide) rfl
      (State.advance_ok_pos_toNat hcan.2.2) (by omega) h.seen
    rw [if_neg (not_not_intro hid), parseSequence_of_getDevid hbegin hexec,
      if_neg (not_not_intro (State.ok_status _)), ← hlen]
    exact hnext.endsAs_loop (by omega)
  · rw [if_pos hid]
    exact hfailed (exec_getDevid_of_unknown hcan h.region hid) rfl

/-- Settles O55: FR_BEGIN puts the framer at the start of the span, from where it is in step with `Deframe`. -/
theorem parseSequenceIsDeframe : Obligations.ParseSequenceIsDeframe := fun s hspan =>
  (State.beginStream_parsesAt hspan).endsAs_sequence (exec_frBegin_of_span (.inr rfl) hspan) (s.memRead_length _ _)

end Sys2Proof.Machine
end

section
/-! PROOFS. The statements of 44_system.md: a step that runs a command word, NOP, and the transition table of the framer. The
table is read off the ends of a command: with its entry at hand, a command raises BadSequence, raises another caller error,
fails the parse, or ends OK in a state of the entry. -/

namespace Sys2Proof.Machine

/-! ### The command port (R211) and NOP (R210) -/

section
variable {s : State} {w : Word} {i : Instr}

theorem hostCmd_of_decode (hw : decode w = .ok i) : hostCmd w s = exec i s := by
  rw [hostCmd, hw]

theorem step_of_cmd {rest : List Event} (hp : s.pending = .op (.cmd w) :: rest) (hw : decode w = .ok i) :
    step s = exec i (s.taken rest) :=
  (step_of_pending hp).trans (hostCmd_of_decode hw)

end

/-- A word passes through the 32 bits of the port as it is. -/
theorem portWord_toNat (w : Word) : portWord 32 w.toNat = w := by
  rw [portWord, Nat.mod_eq_of_lt w.isLt, BitVec.ofNat_toNat, BitVec.setWidth_eq]

/-- Settles O6: the oldest pending event is the command port's. -/
theorem stepRunsTheDecodedCommand : Obligations.StepRunsTheDecodedCommand :=
  fun _ _ _ _ hp hw _ => step_of_cmd hp hw

/-- Settles O7: the word issued is the encoding, which decodes to the command, and taking it leaves what was pending. -/
theorem fetchedEncodingRunsNext : Obligations.FetchedEncodingRunsNext := by
  intro s i hi
  rw [State.withFetchWord, portWord_toNat]
  exact step_of_cmd (s.issue_pending (encode i)) (decodeOfEncodeIsTheCommand i hi)

/-- Settles O24: the all-zero word is among those written out, and NOP only ends OK. -/
theorem nopOnlyWritesOk : Obligations.NopOnlyWritesOk :=
  ⟨writtenOutWordsDecode.1, fun _ => rfl⟩

/-! ### The entries of the table (R213) -/

/-- The PUT commands, each with the one state in which it is in sequence. -/
abbrev putRows : List (Instr × BitVec 3) :=
  [(.putDevid, FrState.devid), (.putHdr, FrState.hdr), (.putBodycrc, FrState.body), (.putEnd, FrState.hdr)]

/-- The GET commands, likewise. -/
abbrev getRows : List (Instr × BitVec 3) :=
  [(.getDevid, FrState.devid), (.getHdr, FrState.hdr), (.getBody, FrState.body)]

/-- The entry of the command `i` in state `s`. -/
abbrev State.entry (s : State) (i : Instr) : List (BitVec 3) := nextStates s.frmode s.frstate i

section
variable {s t : State} {i : Instr} {st : BitVec 3}

theorem State.entry_put_eq_nil_iff (hi : (i, st) ∈ putRows) : s.entry i = [] ↔ s.putReady st = false := by
  rw [State.putReady_eq_false_iff]
  simp only [putRows, List.mem_cons, Prod.mk.injEq, List.not_mem_nil, or_false] at hi
  rcases hi with ⟨rfl, rfl⟩ | ⟨rfl, rfl⟩ | ⟨rfl, rfl⟩ | ⟨rfl, rfl⟩ <;> simp [nextStates, imp_iff_not_or]

theorem State.entry_get_eq_nil_iff (hi : (i, st) ∈ getRows) : s.entry i = [] ↔ s.getReady st = false := by
  rw [State.getReady_eq_false_iff]
  simp only [getRows, List.mem_cons, Prod.mk.injEq, List.not_mem_nil, or_false] at hi
  rcases hi with ⟨rfl, rfl⟩ | ⟨rfl, rfl⟩ | ⟨rfl, rfl⟩ <;> simp [nextStates, imp_iff_not_or]

/-- Only a PUT or a GET command has a `seq` entry. -/
theorem exists_row_of_entry_eq_nil (h : s.entry i = []) : ∃ st, (i, st) ∈ putRows ∨ (i, st) ∈ getRows := by
  cases i with
  | nop | pack | unpack | crc32 | frBegin => exact absurd h (List.cons_ne_nil _ _)
  | putDevid | getDevid => exact ⟨FrState.devid, by simp⟩
  | putHdr | putEnd | getHdr => exact ⟨FrState.hdr, by simp⟩
  | putBodycrc | getBody => exact ⟨FrState.body, by simp⟩

/-- At a `seq` entry the command reports BadSequence, from any state. -/
theorem exec_of_entry_eq_nil (h : s.entry i = []) : exec i s = .next (reported s 0x0A) := by
  obtain ⟨st, hput | hget⟩ := exists_row_of_entry_eq_nil h
  · exact exec_put_of_badSequence hput (State.putReady_eq_false_iff.1 ((State.entry_put_eq_nil_iff hput).1 h))
  · exact exec_get_of_badSequence hget (State.getReady_eq_false_iff.1 ((State.entry_get_eq_nil_iff hget).1 h))

theorem putReady_of_entry_ne_nil (hi : (i, st) ∈ putRows) (h : s.entry i ≠ []) : s.putReady st = true := by
  simpa using mt (State.entry_put_eq_nil_iff hi).2 h

theorem canParse_of_entry_ne_nil (hinv : s.Inv) (hi : (i, st) ∈ getRows) (h : s.entry i ≠ []) : s.canParse st 0 := by
  obtain ⟨hmode, hst⟩ := (s.getReady_iff st).1 (by simpa using mt (State.entry_get_eq_nil_iff hi).2 h)
  exact ⟨hmode, hst, hinv.pos_le_limit⟩

/-- No entry names IDLE, but for the commands that keep FRSTATE. -/
theorem frstate_eq_idle_of_mem_entry (h : FrState.idle ∈ s.entry i) : s.frstate = FrState.idle := by
  cases i with
  | nop | pack | unpack | crc32 => exact (List.mem_singleton.1 h).symm
  | frBegin => exact absurd h (by simp [nextStates])
  | _ =>
    rw [State.entry, nextStates] at h
    split_ifs at h <;> exact absurd h (by decide)

/-! ### The ends of a command by its entry -/

/-- The ends of a command that is in sequence: a caller error, but not BadSequence; a framing error; OK, in a state the
entry names. -/
inductive EntryEnd (i : Instr) (s : State) : State → Prop where
  | raised {k : ErrorKind} (hk : k.code < 0x10) (hseq : k.code ≠ 0x0A) : EntryEnd i s (s.raise k)
  | failed {u : State} {k : ErrorKind} (hk : 0x10 ≤ k.code) : EntryEnd i s (u.fail k)
  | moved {u : State} (hu : u.frstate ∈ s.entry i) : EntryEnd i s u.ok

theorem EntryEnd.of_raised {k : ErrorKind} (hk : k.code < 0x10) (hseq : k.code ≠ 0x0A)
    (h : Host.Outcome.next (s.raise k) = (.next t : Result)) : EntryEnd i s t := by
  obtain rfl := Host.Outcome.next.inj h
  exact .raised hk hseq

theorem EntryEnd.of_failed {u : State} {k : ErrorKind} (hk : 0x10 ≤ k.code)
    (hexec : exec i s = .next (u.fail k)) (h : exec i s = .next t) : EntryEnd i s t := by
  obtain rfl := Host.Outcome.next.inj (hexec.symm.trans h)
  exact .failed hk

theorem EntryEnd.of_moved {u : State} (hu : u.frstate ∈ s.entry i) (hexec : exec i s = .next u.ok)
    (h : exec i s = .next t) : EntryEnd i s t := by
  obtain rfl := Host.Outcome.next.inj (hexec.symm.trans h)
  exact .moved hu

/-- PACK and UNPACK: the tests raise no BadSequence, and past them FRSTATE stays. -/
theorem EntryEnd.of_fieldError {op : Direction} {q : Quirks} {u : State}
    (h : (fieldError op q s = none ∧ t = u.ok) ∨ ∃ k, fieldError op q s = some k ∧ t = s.raise k)
    (hu : u.frstate ∈ s.entry i) : EntryEnd i s t := by
  rcases h with ⟨-, rfl⟩ | ⟨k, hk, rfl⟩
  · exact .moved hu
  · rcases fieldError_kind op q s k hk with rfl | rfl | rfl | rfl <;> exact .raised (by decide) (by decide)

theorem execCrc32_entryEnd (h : exec .crc32 s = .next t) : EntryEnd .crc32 s t := by
  rcases execCrc32_eq_next s t h with rfl | rfl | ⟨-, -, rfl⟩
  · exact .raised (by decide) (by decide)
  · exact .raised (by decide) (by decide)
  · exact .moved (by simp [nextStates])

theorem execFrBegin_entryEnd {m : BitVec 2} (h : exec (.frBegin m) s = .next t) : EntryEnd (.frBegin m) s t := by
  rcases execFrBegin_eq_next m s t h with ⟨-, -, rfl⟩ | ⟨-, rfl⟩ | rfl | rfl
  · exact .moved (by simp [nextStates])
  · exact .moved (by simp [nextStates])
  · exact .raised (by decide) (by decide)
  · exact .raised (by decide) (by decide)

/-- An element stored or not, the framer moves on to `st`. -/
theorem EntryEnd.of_emit {n p : Nat} {write : State → State} (hrow : s.entry i = [st])
    (h : s.emit n write (fun u => (u.advance p st).ok) = .next t) : EntryEnd i s t := by
  rcases (s.emit_eq_next _ _ _ _).1 h with ⟨-, -, rfl⟩ | ⟨-, rfl⟩
  · exact .moved (by simp [hrow])
  · exact .moved (by simp [hrow])

theorem execPutDevid_entryEnd (hready : s.putReady FrState.devid = true) (h : exec .putDevid s = .next t) :
    EntryEnd .putDevid s t := by
  rw [exec_putDevid_of_ready hready] at h
  split_ifs at h
  · exact .of_raised (by decide) (by decide) h
  · exact .of_emit (if_pos ((s.putReady_iff _).1 hready)) h

theorem execPutHdr_entryEnd (hready : s.putReady FrState.hdr = true) (h : exec .putHdr s = .next t) :
    EntryEnd .putHdr s t := by
  rw [exec_putHdr_of_ready hready] at h
  split_ifs at h
  · exact .of_raised (by decide) (by decide) h
  · exact .of_raised (by decide) (by decide) h
  · exact .of_emit (if_pos ((s.putReady_iff _).1 hready)) h

theorem execPutBodycrc_entryEnd (hready : s.putReady FrState.body = true) (h : exec .putBodycrc s = .next t) :
    EntryEnd .putBodycrc s t := by
  rw [exec_putBodycrc_of_ready hready] at h
  split_ifs at h
  · exact .of_raised (by decide) (by decide) h
  · exact .of_raised (by decide) (by decide) h
  · exact .of_emit (if_pos ((s.putReady_iff _).1 hready)) h

theorem execPutEnd_entryEnd (hready : s.putReady FrState.hdr = true) (h : exec .putEnd s = .next t) :
    EntryEnd .putEnd s t := by
  rw [exec_putEnd_of_ready hready] at h
  split_ifs at h
  · exact .of_raised (by decide) (by decide) h
  · exact .of_emit (if_pos ((s.putReady_iff _).1 hready)) h

theorem execGetDevid_entryEnd (hinv : s.Inv) (hcan : s.canParse FrState.devid 0) (h : exec .getDevid s = .next t) :
    EntryEnd .getDevid s t := by
  have hbuf := hinv.region_in_buf hcan (by simp)
  have ⟨hmode, hst, _⟩ := hcan
  rcases Nat.lt_or_ge s.limit.toNat (s.pos.toNat + 4) with hshort | hroom
  · exact .of_failed (by decide) (exec_getDevid_of_short hcan hshort) h
  · by_cases hid : s.wordAtPos ∈ s.params.deviceIds
    · exact .of_moved (by simp [nextStates, hmode, hst]) (exec_getDevid_of_known ⟨hmode, hst, hroom⟩ hbuf hid) h
    · exact .of_failed (by decide) (exec_getDevid_of_unknown ⟨hmode, hst, hroom⟩ hbuf hid) h

/-- What the tests of a table header raise are framing errors (60_exceptions.md R221). -/
theorem code_of_headerError : ∀ k ∈ [ErrorKind.invalidTableHeaderCrc, .unexpectedEndOfBuffer, .tableHeaderUnknown,
    .tableHeaderDuplicate], 0x10 ≤ k.code := by
  decide

theorem execGetHdr_entryEnd (hinv : s.Inv) (hcan : s.canParse FrState.hdr 0) (h : exec .getHdr s = .next t) :
    EntryEnd .getHdr s t := by
  have hbuf := hinv.region_in_buf hcan (by simp)
  have ⟨hmode, hst, _⟩ := hcan
  rcases Nat.lt_or_ge s.limit.toNat (s.pos.toNat + 12) with hshort | hroom
  · exact .of_failed (by decide) (exec_getHdr_of_short hcan hshort) h
  · by_cases hzero : s.hdrLen = 0
    · have hexec := exec_getHdr_of_sentinel ⟨hmode, hst, hroom⟩ hbuf hzero
      rcases s.withHdr.acceptSentinel_cases with ⟨-, hend⟩ | ⟨-, hend⟩ <;> rw [hend] at hexec
      · exact .of_failed (by decide) hexec h
      · exact .of_moved (by simp [nextStates, hmode, hst]) hexec h
    · have hexec := exec_getHdr_of_header ⟨hmode, hst, hroom⟩ hbuf hzero
      rcases s.withHdrCrc.acceptHeader_cases with ⟨k, hk, hend⟩ | ⟨-, -, -, -, hend⟩ <;> rw [hend] at hexec
      · exact .of_failed (code_of_headerError k hk) hexec h
      · exact .of_moved (by simp [nextStates, hmode, hst]) hexec h

theorem execGetBody_entryEnd (hinv : s.Inv) (hcan : s.canParse FrState.body 0) (h : exec .getBody s = .next t) :
    EntryEnd .getBody s t := by
  have hbuf := hinv.region_in_buf hcan (by simp)
  have ⟨hmode, hst, _⟩ := hcan
  cases hes : entrySize s.params s.devid s.blkid with
  | none => exact .of_failed (by decide) (exec_getBody_of_undefined hcan hes) h
  | some es =>
    by_cases hrem : s.bodyLen % es = 0
    · rcases Nat.lt_or_ge s.limit.toNat (s.pos.toNat + s.bodyLen + 4) with hshort | hroom
      · exact .of_failed (by decide) (exec_getBody_of_short hcan hes hrem hshort) h
      · have hcan' : s.canParse FrState.body (s.bodyLen + 4) := ⟨hmode, hst, hroom⟩
        by_cases hcrc : s.bodyCrc = s.trailingCrc
        · exact .of_moved (by simp [nextStates, hmode, hst]) (exec_getBody_of_accepted hcan' hbuf hes hrem hcrc) h
        · exact .of_failed (by decide) (exec_getBody_of_badCrc hcan' hbuf hes hrem hcrc) h
    · exact .of_failed (by decide) (exec_getBody_of_remainder hcan hes hrem) h

/-- How a command in sequence ends, whichever it is. -/
theorem exec_entryEnd (hinv : s.Inv) (hrow : s.entry i ≠ []) (h : exec i s = .next t) : EntryEnd i s t := by
  cases i with
  | nop => exact .of_moved (List.mem_singleton.2 rfl) rfl h
  | pack q => exact .of_fieldError (execPack_eq_next q s t h) (List.mem_singleton.2 rfl)
  | unpack q => exact .of_fieldError (execUnpack_eq_next q s t h) (List.mem_singleton.2 rfl)
  | crc32 => exact execCrc32_entryEnd h
  | frBegin m => exact execFrBegin_entryEnd h
  | putDevid => exact execPutDevid_entryEnd (putReady_of_entry_ne_nil (by simp) hrow) h
  | putHdr => exact execPutHdr_entryEnd (putReady_of_entry_ne_nil (by simp) hrow) h
  | putBodycrc => exact execPutBodycrc_entryEnd (putReady_of_entry_ne_nil (by simp) hrow) h
  | putEnd => exact execPutEnd_entryEnd (putReady_of_entry_ne_nil (by simp) hrow) h
  | getDevid => exact execGetDevid_entryEnd hinv (canParse_of_entry_ne_nil hinv (by simp) hrow) h
  | getHdr => exact execGetHdr_entryEnd hinv (canParse_of_entry_ne_nil hinv (by simp) hrow) h
  | getBody => exact execGetBody_entryEnd hinv (canParse_of_entry_ne_nil hinv (by simp) hrow) h

end

/-- What the table says of a command that ends in `t`, its entry being `row`. -/
structure FollowsEntry (row : List (BitVec 3)) (s t : State) : Prop where
  in_sequence : row ≠ [] → t.status.toNat ≠ 0x0A
  ends_ok : t.status = 0 → t.frstate ∈ row
  caller_error : 0x01 ≤ t.status.toNat → t.status.toNat ≤ 0x0C → t.frstate = s.frstate ∧ t.frmode = s.frmode
  framing_error : 0x10 ≤ t.status.toNat → t.frstate = FrState.failed
  idle_again : t.frstate = FrState.idle → s.frstate = FrState.idle

/-- A caller error keeps FRSTATE; it is BadSequence only at a `seq` entry. -/
theorem State.raise_followsEntry {s : State} {k : ErrorKind} {row : List (BitVec 3)} (hk : k.code < 0x10)
    (hseq : row ≠ [] → k.code ≠ 0x0A) : FollowsEntry row s (s.raise k) where
  in_sequence hrow := by rw [State.raise_status, statusOf_toNat]; exact hseq hrow
  ends_ok hzero := absurd hzero (statusOf_ne_statusOk k)
  caller_error _ _ := ⟨rfl, rfl⟩
  framing_error hcode := by rw [State.raise_status, statusOf_toNat] at hcode; omega
  idle_again := id

theorem EntryEnd.followsEntry {i : Instr} {s t : State} (h : EntryEnd i s t) : FollowsEntry (s.entry i) s t := by
  cases h with
  | raised hk hseq => exact State.raise_followsEntry hk fun _ => hseq
  | @failed u k hk =>
    have hcode : (u.fail k).status.toNat = k.code := by rw [State.fail_status, statusOf_toNat]
    exact ⟨fun _ => by omega, fun hzero => absurd hzero (statusOf_ne_statusOk k), fun _ _ => by omega, fun _ => rfl,
      fun hidle => absurd hidle (by rw [State.fail_frstate]; decide)⟩
  | @moved u hu =>
    have hcode : u.ok.status.toNat = 0 := rfl
    exact ⟨fun _ => by omega, fun _ => hu, fun _ _ => by omega, fun _ => by omega,
      fun hidle => frstate_eq_idle_of_mem_entry (i := i) (hidle ▸ hu)⟩

/-- Settles O20: at a `seq` entry the command raises BadSequence; elsewhere by the ends of a command in sequence. -/
theorem framerFollowsTheTransitionTable : Obligations.FramerFollowsTheTransitionTable := by
  intro i s hinv
  refine ⟨exec_of_entry_eq_nil, fun t hexec => ?_⟩
  have hend : FollowsEntry (s.entry i) s t := by
    by_cases hrow : s.entry i = []
    · obtain rfl := Host.Outcome.next.inj ((exec_of_entry_eq_nil hrow).symm.trans hexec)
      exact State.raise_followsEntry (k := .badSequence) (by decide) fun hne => absurd hrow hne
    · exact (exec_entryEnd hinv hrow hexec).followsEntry
  exact ⟨hend.in_sequence, hend.ends_ok, hend.caller_error, hend.framing_error, hend.idle_again⟩

end Sys2Proof.Machine
end

section
/-! PROOFS. The statements of 60_exceptions.md: how a command ends, what a caller error leaves, and the idle block. -/

namespace Sys2Proof.Machine

/-! ### Every command ends OK or with one error kind (R220, R224) -/

/-- Every kind has a code of the table of R221. -/
theorem ErrorKind.code_mem (k : ErrorKind) :
    k.code ∈ [0x01, 0x02, 0x08, 0x09, 0x0A, 0x0B, 0x0C, 0x10, 0x11, 0x12, 0x13, 0x14, 0x15, 0x16, 0x17] := by
  cases k <;> decide

/-- Settles O17: from `State.Inv` a command answers, and it keeps STATUS and ESTICKY until its end writes them. -/
theorem everyCommandEndsOkOrWithOneError : Obligations.EveryCommandEndsOkOrWithOneError := by
  intro i s hinv
  obtain ⟨t, hexec⟩ := exec_answers i hinv
  refine ⟨t, hexec, ?_⟩
  cases exec_effect hexec with
  | raised k => exact .inr ⟨k.code, k.code_mem, rfl, rfl⟩
  | @failed _ _ u k hu =>
    have hsticky : (u.fail k).esticky = stickySet s.esticky k := by rw [State.fail_esticky, hu.esticky]
    exact .inr ⟨k.code, k.code_mem, rfl, hsticky⟩
  | completed hu => exact .inl ⟨rfl, hu.esticky⟩
  | advanced hu => exact .inl ⟨rfl, hu.esticky⟩
  | began => exact .inl ⟨rfl, rfl⟩

/-! ### Caller errors (R225) -/

/-- STATUS is OK or the code of a framing error (R221): no caller error was reported. -/
def State.NoCallerError (t : State) : Prop := t.status = statusOk ∨ 0x10 ≤ t.status.toNat

theorem State.ok_noCallerError (u : State) : u.ok.NoCallerError := .inl rfl

theorem State.fail_noCallerError (u : State) {k : ErrorKind} (hk : 0x10 ≤ k.code) : (u.fail k).NoCallerError :=
  .inr (by rwa [State.fail_status, statusOf_toNat])

section
variable {s t : State} {i : Instr}

/-- A table header is accepted or fails with a framing error, from any state (43_framer_parse.md R190). -/
theorem State.acceptHeader_noCallerError (u : State) : u.acceptHeader.NoCallerError := by
  rcases u.acceptHeader_cases with ⟨k, hk, hend⟩ | ⟨-, -, -, -, hend⟩ <;> rw [hend]
  · exact State.fail_noCallerError _ (code_of_headerError k hk)
  · exact State.ok_noCallerError _

theorem State.acceptSentinel_noCallerError (u : State) : u.acceptSentinel.NoCallerError := by
  rcases u.acceptSentinel_cases with ⟨-, hend⟩ | ⟨-, hend⟩ <;> rw [hend]
  · exact State.fail_noCallerError _ (by decide)
  · exact State.ok_noCallerError _

theorem State.acceptBody_noCallerError (u : State) (n es : Nat) : (u.acceptBody n es).NoCallerError := by
  rcases u.acceptBody_cases n es with ⟨-, hend⟩ | ⟨-, hend⟩ <;> rw [hend]
  · exact State.fail_noCallerError _ (by decide)
  · exact State.ok_noCallerError _

/-- BadSequence is the one caller error of a GET command (R230). -/
theorem exec_get_noCallerError (hi : i ∈ [Instr.getDevid, .getHdr, .getBody]) (h : exec i s = .next t) :
    t = s.raise .badSequence ∨ t.NoCallerError := by
  simp only [List.mem_cons, List.not_mem_nil, or_false] at hi
  rcases hi with rfl | rfl | rfl
  · rcases execGetDevid_eq_next s t h with rfl | ⟨-, -, rfl⟩ | ⟨-, ⟨rfl, -⟩ | ⟨rfl, -⟩⟩
    · exact .inl rfl
    · exact .inr (State.fail_noCallerError _ (by decide))
    · exact .inr (State.fail_noCallerError _ (by decide))
    · exact .inr (State.ok_noCallerError _)
  · rcases execGetHdr_eq_next s t h with rfl | ⟨-, -, rfl⟩ | ⟨-, ⟨-, rfl⟩ | ⟨-, rfl⟩⟩
    · exact .inl rfl
    · exact .inr (State.fail_noCallerError _ (by decide))
    · exact .inr (State.acceptSentinel_noCallerError _)
    · exact .inr (State.acceptHeader_noCallerError _)
  · rcases execGetBody_eq_next s t h with rfl | ⟨-, -, rfl | rfl⟩ | ⟨-, es, -, -, rfl⟩
    · exact .inl rfl
    · exact .inr (State.fail_noCallerError _ (by decide))
    · exact .inr (State.fail_noCallerError _ (by decide))
    · exact .inr (State.acceptBody_noCallerError _ _ _)

/-- A command raises an error and changes nothing else, or reports no caller error, from any state. -/
theorem exec_raises_or_noCallerError (h : exec i s = .next t) : (∃ k, t = s.raise k) ∨ t.NoCallerError := by
  cases exec_end h with
  | @raised _ _ k => exact .inl ⟨k, rfl⟩
  | failed hi => exact (exec_get_noCallerError hi h).imp_left fun ht => ⟨_, ht⟩
  | completed | accepted | began => exact .inr (State.ok_noCallerError _)

end

/-- Settles O18: the code is a caller error's, so the command raised it and did nothing else. -/
theorem callerErrorsOnlyReport : Obligations.CallerErrorsOnlyReport := by
  intro i s t hexec hlow hhigh
  rcases exec_raises_or_noCallerError hexec with ⟨k, rfl⟩ | hok | hframing
  · rw [State.raise_status, statusOf_toNat, State.raise_eq_reported]
  · exact absurd hlow (by rw [hok]; decide)
  · omega

/-! ### The idle block (R236) -/

/-- Settles O8: an empty list of pending events is the idle case of a step. -/
theorem idleStepKeepsTheState : Obligations.IdleStepKeepsTheState :=
  fun _ => step_of_idle

end Sys2Proof.Machine
end

section
/-! PROOFS. The statement of 70_reset_and_hazards.md: what the registers and BUF hold after a reset (R250, R251). -/

namespace Sys2Proof.Machine

/-! ### What a reset leaves in the registers and in BUF (R251) -/

theorem State.reset_readReg (r : Reg) : State.reset.readReg r = 0 := by
  cases r <;> rfl

/-- A later reset gives the registers what the first one does. -/
theorem State.afterReset_readReg (s : State) (r : Reg) : s.afterReset.readReg r = State.reset.readReg r := by
  cases r <;> rfl

/-- BUF lists no byte after a reset, so every byte is the free value of the reset just counted (R252, log entry 2). -/
theorem State.afterReset_bufByte (s : State) (a : Nat) :
    s.afterReset.bufByte a = Config.resetByte (s.resets + 1) a := by
  have hempty : s.afterReset.buf.byteAt? a = none := rfl
  rw [State.bufByte, Memory.byteAt, hempty, Option.getD_none, State.unlisted, State.afterReset_resets]

/-! ### The reset event (R250, log entry 6) -/

theorem step_of_reset {s : State} {rest : List Event} (hp : s.pending = .reset :: rest) :
    step s = .next (s.taken rest).afterReset :=
  step_of_pending hp

/-- Settles O12: a pending reset is the oldest event, and its step ends in the state after reset. -/
theorem resetClearsEveryRegister : Obligations.ResetClearsEveryRegister := by
  refine ⟨State.reset_readReg, fun s rest hp => ?_⟩
  refine ⟨(s.taken rest).afterReset, step_of_reset hp, ?registers, ?params, ?pending, ?buf⟩
  case registers => exact fun r => (State.afterReset_readReg _ r).trans (State.reset_readReg r)
  case params => rw [State.afterReset_params, State.taken_params]
  case pending => rw [State.afterReset_pending, State.taken_pending]
  case buf => exact fun a => by rw [State.afterReset_bufByte, State.taken_resets]

end Sys2Proof.Machine
end
